-- ==== Sys2Proof/Word.lean ====
section
/-! DEFINITION. The widths the spec treats as bits: a byte (00_scope.md R8), a 32-bit region-relative offset and the 72-bit
transaction descriptor `TD` (30_encoding.md R91). -/

namespace Sys2Proof

/-- A byte: 8 bits (R8). -/
abbrev Byte := BitVec 8

/-- A region-relative byte offset: below `2^32` (R7), the `offset` field of a descriptor (R91). -/
abbrev Offset := BitVec 32

/-- A transaction descriptor (R91): region, direction, size code, four zero bits, offset, value. -/
abbrev TD := BitVec 72

end Sys2Proof
end

