-- ==== Sys2Proof/Config.lean ====
section
/-! DEFINITION. What the spec fixes once for the machine: the constants of 00_scope.md R6 and the open parameters of R7
(the record `Cfg`), held in types that admit exactly the values R7's constraints admit. -/

namespace Sys2Proof

/-- `FLASH_SIZE`, 4 MiB (R6). -/
abbrev flashSize : Nat := 0x400000

/-- `IO_WINDOW_SIZE`, 15 bytes, offsets 0 to 14 (R6). -/
abbrev ioWindowSize : Nat := 15

/-- `SENTINEL` (R6). -/
abbrev sentinel : Byte := 0x55

/-- `MANUFACTURER_ID` (R6). -/
abbrev manufacturerId : Byte := 0x01

/-- `DEVICE_ID` (R6). -/
abbrev deviceId : Byte := 0xC4

/-- The least `FLASH_WINDOW_SIZE` R7 allows. -/
abbrev flashWindowMin : Nat := 0xAAAB

/-- The least `BOOTROM_WINDOW_SIZE` (43_bootrom_overlay.md R191). -/
abbrev bootromWindowMin : Nat := 512

/-- One entry of `BANK_TABLE` (R34): one of the three window sizes with an offset that keeps `offset + size` at most
4 MiB. Every pair R7 admits is one value of this type, and every value is such a pair. -/
inductive BankDescriptor where
  /-- a window of `0x100000` bytes -/
  | mib1 (start : Fin 0x300001)
  /-- a window of `0x80000` bytes -/
  | kib512 (start : Fin 0x380001)
  /-- a window of `0x40000` bytes -/
  | kib256 (start : Fin 0x3C0001)
deriving DecidableEq, Repr, Inhabited

/-- `CFI_TABLE` (R35): the 32 entries before index `0x20`, then the entry `0x51` the source gives, then the entries
after it, as many as there are. So `CFI_LEN > 0x20` and `CFI_TABLE[0x20] = 0x51` hold of every value. -/
structure CfiTable where
  /-- entries `0x00` to `0x1F` -/
  before : Vector Byte 32
  /-- entries `0x21` onwards -/
  after : List Byte
deriving DecidableEq, Repr, Inhabited

/-- The configuration record `Cfg` (R7). -/
structure Config where
  /-- `BANK_TABLE`, 11 descriptors (R34) -/
  bankTable : Vector BankDescriptor 11
  /-- `CFI_TABLE` and `CFI_LEN` (R35) -/
  cfiTable : CfiTable
  /-- `FLASH_WINDOW_SIZE` less its least value `0xAAAB`; at most `2^32 - 0xAAAB` (R7) -/
  flashWindowExtra : Fin 0xFFFF5556
  /-- `FLASH_BASE`; no rule reads it (R7) -/
  flashBase : Nat
  /-- `IO_BASE`; no rule reads it (R7) -/
  ioBase : Nat
  /-- `BOOTROM_BASE`; no rule reads it (R7) -/
  bootromBase : Nat
  /-- `FLASH_INIT` (R231): the image's bytes by physical offset; an offset not listed holds 0 -/
  flashInit : List Host.Cell
  /-- `BANK_RESET` (R7) -/
  bankReset : BitVec 4
  /-- `LED_RESET` (R7) -/
  ledReset : BitVec 3
  /-- `RECOVERY_STRAP` (R7) -/
  recoveryStrap : Bool
  /-- `BOOTROM_WINDOW_SIZE` less its least value 512 (R191) -/
  bootromExtra : Nat
  /-- `BOOTROM_INIT`, the overlay's image; empty when absent (R191, R194) -/
  bootromImage : List Byte
deriving DecidableEq, Repr, Inhabited

/-- The configuration of the machine that `State.reset` describes: one value of the record, of which nothing is known
but what its type says. DESIGN CHOICE (log entry 2), safe: no proof can learn a value from it. -/
opaque Config.machine : Config

end Sys2Proof
end

