-- ==== Sys2Proof/Syntax.lean ====
section
/-! DEFINITION. The transactions of the block (30_encoding.md R90 to R94): regions, directions, sizes, data, the decode
context (R100), and `Instr`, one constructor per row of spec/opcode_table.json. -/

namespace Sys2Proof

/-- The tag of a transaction (R90): flash region or control I/O window. -/
inductive Region where
  | flash
  | io
deriving DecidableEq, Repr

/-- The direction of a transaction (R90). -/
inductive Dir where
  | read
  | write
deriving DecidableEq, Repr

/-- `szc`, bits 69:68 of a descriptor (R91). -/
inductive SizeCode where
  /-- 1 byte -/
  | one
  /-- 2 bytes -/
  | two
  /-- 4 bytes -/
  | four
  /-- any other size -/
  | other
deriving DecidableEq, Repr

/-- `FLASH_SIZES_OK` (R6): the access sizes the flash region accepts. -/
inductive Size where
  | one
  | two
  | four
deriving DecidableEq, Repr

/-- A value of exactly `8n` bits, `n` in {1, 2, 4} (R67): what a flash write carries and a read returns. -/
inductive Datum where
  | byte (v : BitVec 8)
  | half (v : BitVec 16)
  | word (v : BitVec 32)
deriving DecidableEq, Repr

/-- `S.mode`, the protocol state (10_state.md R21). -/
inductive Mode where
  | normal
  | queryCFI
  | autoselect
  | writing
  | sectorErase
deriving DecidableEq, Repr

/-- `S.cycle`, the number of the next expected step of a sequence, 1 to 6 (10_state.md R22). -/
inductive Cycle where
  | one
  | two
  | three
  | four
  | five
  | six
deriving DecidableEq, Repr

/-- The decode context, the sequencer position `(S.mode, S.cycle)` (R23, R100). -/
structure Position where
  mode : Mode
  cycle : Cycle
deriving DecidableEq, Repr

/-- The operations of the block, one per row of the opcode table; what a row does not fix is an operand. -/
inductive Instr where
  /-- FW.BADSIZE (R155): offset and value field -/
  | fwBadsize (o : Offset) (v : BitVec 32)
  /-- FW.PROG_DATA (R153): logical offset and datum -/
  | fwProgData (o : Offset) (d : Datum)
  /-- FW.RESET (R142) -/
  | fwReset
  /-- FW.CFIQ (R144) -/
  | fwCfiq
  /-- FW.UNLOCK1 (R145) -/
  | fwUnlock1
  /-- FW.UNLOCK2 (R146) -/
  | fwUnlock2
  /-- FW.ERASE_SETUP (R147) -/
  | fwEraseSetup
  /-- FW.AUTOSEL (R148) -/
  | fwAutosel
  /-- FW.PROG_SETUP (R149) -/
  | fwProgSetup
  /-- FW.UNLOCK3 (R150) -/
  | fwUnlock3
  /-- FW.UNLOCK4 (R151) -/
  | fwUnlock4
  /-- FW.SECTOR_ERASE (R152): the sector address, which is ignored -/
  | fwSectorErase (o : Offset)
  /-- FW.IGNORED (R154): any offset and datum -/
  | fwIgnored (o : Offset) (d : Datum)
  /-- FR.BADSIZE (R179) -/
  | frBadsize (o : Offset)
  /-- FR.ARRAY (R172) -/
  | frArray (o : Offset) (n : Size)
  /-- FR.CFI (R174) -/
  | frCfi (o : Offset) (n : Size)
  /-- FR.ID (R176) -/
  | frId (o : Offset) (n : Size)
  /-- FR.BUSY (R178) -/
  | frBusy (o : Offset) (n : Size)
  /-- IOW.LED (R121) -/
  | iowLed (v : Byte)
  /-- IOW.LED.RSVD (R121) -/
  | iowLedRsvd (v : Byte)
  /-- IOW.BANKSPI (R122) -/
  | iowBankspi (v : Byte)
  /-- IOW.BANKSPI.RSVD (R122) -/
  | iowBankspiRsvd (v : Byte)
  /-- IOW.UNDEF (R123): offset 2 to 14 -/
  | iowUndef (o : Offset) (v : Byte)
  /-- IOR.ID (R124) -/
  | iorId
  /-- IOR.STATUS (R125) -/
  | iorStatus
  /-- IOR.UNDEF (R126): offset 2 to 14 -/
  | iorUndef (o : Offset)
  /-- IO.BADSIZE (R127): direction, size code, offset, value field -/
  | ioBadsize (dir : Dir) (szc : SizeCode) (o : Offset) (v : BitVec 32)
deriving DecidableEq, Repr

end Sys2Proof
end

