-- ==== Sys2Proof/WellFormed.lean ====
section
/-! DEFINITION. Which operands the rows of the opcode table admit: the reserved bits of the register writes
(10_state.md R31, R32), the undefined I/O offsets 2 to 14 (R52), the sizes and value widths of a descriptor (R67, R91) and
the one write that is never ignored, the universal reset (R101). -/

namespace Sys2Proof

/-- The value field of a descriptor fits in the `8n` bits of its size code (R67, R91); of a size that is none of 1, 2,
4 the descriptor holds 32 bits of the value, whatever they are. -/
def SizeCode.holds (szc : SizeCode) (v : BitVec 32) : Bool :=
  match szc with
  | .one => decide (v.toNat < 0x100)
  | .two => decide (v.toNat < 0x10000)
  | .four => true
  | .other => true

/-- An I/O offset the register map leaves undefined, 2 to 14 (R25). -/
def Offset.undefinedIo (o : Offset) : Bool := decide (2 ≤ o.toNat) && decide (o.toNat ≤ 14)

/-- The operands are ones the instruction's row admits. -/
def Instr.wellFormed : Instr → Bool
  | .fwBadsize _ _ => true
  | .fwProgData _ _ => true
  | .fwReset => true
  | .fwCfiq => true
  | .fwUnlock1 => true
  | .fwUnlock2 => true
  | .fwEraseSetup => true
  | .fwAutosel => true
  | .fwProgSetup => true
  | .fwUnlock3 => true
  | .fwUnlock4 => true
  | .fwSectorErase _ => true
  | .fwIgnored o d => !(decide (o = 0x00) && decide (d = .byte 0xF0))
  | .frBadsize _ => true
  | .frArray _ _ => true
  | .frCfi _ _ => true
  | .frId _ _ => true
  | .frBusy _ _ => true
  | .iowLed v => decide (v.extractLsb' 3 5 = 0)
  | .iowLedRsvd v => decide (v.extractLsb' 3 5 ≠ 0)
  | .iowBankspi v => !v.getLsbD 7
  | .iowBankspiRsvd v => v.getLsbD 7
  | .iowUndef o _ => o.undefinedIo
  | .iorId => true
  | .iorStatus => true
  | .iorUndef o => o.undefinedIo
  | .ioBadsize dir szc o v =>
      decide (szc ≠ .one) && decide (o.toNat ≤ 14) && szc.holds v && (decide (dir = .write) || decide (v = 0))

end Sys2Proof
end

