-- ==== Sys2Proof/Decode.lean ====
section
/-! DEFINITION. From a descriptor to an operation and back (30_encoding.md R91, R95, R97 to R101). Decoding is a function of the
decode context and the descriptor (R100); it is total, and what is no descriptor of a transaction is rejected by name. -/

namespace Sys2Proof

/-- Why a 72-bit word is no descriptor of a transaction that can reach the block. -/
inductive DecodeError where
  /-- bits 67:64 are not zero (R91) -/
  | reservedBits
  /-- the value field of a write has bits above its `8n` (R67, R91) -/
  | valueWidth
  /-- the value field of a read is not zero (R91) -/
  | readValue
  /-- the I/O offset is above 14 (R54) -/
  | ioOffset
deriving DecidableEq, Repr

/-! ### The fields of a descriptor (R91) -/

/-- Bit 71: 0 = flash, 1 = io. -/
def TD.region (td : TD) : Region := if td.getLsbD 71 then .io else .flash

/-- Bit 70: 0 = read, 1 = write. -/
def TD.dir (td : TD) : Dir := if td.getLsbD 70 then .write else .read

/-- Bits 69:68: 0 = 1 byte, 1 = 2 bytes, 2 = 4 bytes, 3 = any other size. -/
def TD.szc (td : TD) : SizeCode :=
  if td.getLsbD 69 then (if td.getLsbD 68 then .other else .four) else (if td.getLsbD 68 then .two else .one)

/-- Bits 67:64, always 0. -/
def TD.zeros (td : TD) : BitVec 4 := td.extractLsb' 64 4

/-- Bits 63:32. -/
def TD.offset (td : TD) : Offset := td.extractLsb' 32 32

/-- Bits 31:0. -/
def TD.value (td : TD) : BitVec 32 := td.extractLsb' 0 32

/-- Bit 71 of a region. -/
def Region.bit : Region → BitVec 1
  | .flash => 0
  | .io => 1

/-- Bit 70 of a direction. -/
def Dir.bit : Dir → BitVec 1
  | .read => 0
  | .write => 1

/-- Bits 69:68 of a size code. -/
def SizeCode.bits : SizeCode → BitVec 2
  | .one => 0
  | .two => 1
  | .four => 2
  | .other => 3

/-- The packing of a transaction (R91). -/
def pack (region : Region) (dir : Dir) (szc : SizeCode) (o : Offset) (v : BitVec 32) : TD :=
  region.bit ++ dir.bit ++ szc.bits ++ 0#4 ++ o ++ v

/-! ### Sizes and data -/

/-- The size code of an accepted size. -/
def Size.code : Size → SizeCode
  | .one => .one
  | .two => .two
  | .four => .four

/-- The accepted size a size code names, if it names one. -/
def SizeCode.size? : SizeCode → Option Size
  | .one => some .one
  | .two => some .two
  | .four => some .four
  | .other => none

/-- The size code of an access of `n` bytes (R91): every size but 1, 2, 4 has the code 3. -/
def SizeCode.ofBytes (n : Nat) : SizeCode :=
  if n = 1 then .one else if n = 2 then .two else if n = 4 then .four else .other

/-- A number of bytes with the size code. The code 3 names no one size, and 8 stands in where only a descriptor is given:
the words of the table and the notation of R105. DESIGN CHOICE (log entry 11), safe. -/
def SizeCode.bytes : SizeCode → Nat
  | .one => 1
  | .two => 2
  | .four => 4
  | .other => 8

/-- The size of a datum. -/
def Datum.size : Datum → Size
  | .byte _ => .one
  | .half _ => .two
  | .word _ => .four

/-- The value field of a datum: zero-extended to 32 bits (R91). -/
def Datum.field : Datum → BitVec 32
  | .byte v => v.setWidth 32
  | .half v => v.setWidth 32
  | .word v => v

/-- The datum of `8n` bits a value field holds. -/
def Size.datum (n : Size) (v : BitVec 32) : Datum :=
  match n with
  | .one => .byte (v.setWidth 8)
  | .two => .half (v.setWidth 16)
  | .four => .word v

/-! ### Decoding -/

/-- The cycle parser's command at cycle `k`, if the byte `v` written at `o` is one (R97, R101 step 5). -/
def parseCommand (k : Cycle) (o : Offset) (v : Byte) : Option Instr :=
  match k with
  | .one => if o = 0xAA ∧ v = 0x98 then some .fwCfiq else if o = 0xAAAA ∧ v = 0xAA then some .fwUnlock1 else none
  | .two => if o = 0x5555 ∧ v = 0x55 then some .fwUnlock2 else none
  | .three =>
      if o = 0xAAAA ∧ v = 0x80 then some .fwEraseSetup
      else if o = 0xAAAA ∧ v = 0x90 then some .fwAutosel
      else if o = 0xAAAA ∧ v = 0xA0 then some .fwProgSetup
      else none
  | .four => if o = 0xAAAA ∧ v = 0xAA then some .fwUnlock3 else none
  | .five => if o = 0x5555 ∧ v = 0x55 then some .fwUnlock4 else none
  | .six => if v = 0x30 then some (.fwSectorErase o) else none

/-- The operation a flash write of an accepted size is, in the order of R101: the armed program, the universal reset,
the mode hold, then the one-byte commands of the cycle. -/
def selectFlashWrite (c : Position) (o : Offset) (d : Datum) : Instr :=
  if c.mode = .writing then .fwProgData o d
  else if o = 0x00 ∧ d = .byte 0xF0 then .fwReset
  else if c.mode ≠ .normal then .fwIgnored o d
  else
    match d with
    | .byte v => (parseCommand c.cycle o v).getD (.fwIgnored o d)
    | .half _ => .fwIgnored o d
    | .word _ => .fwIgnored o d

/-- The operation a flash read of an accepted size is: selected by the mode alone (R99). -/
def selectFlashRead (m : Mode) (o : Offset) (n : Size) : Instr :=
  match m with
  | .normal => .frArray o n
  | .queryCFI => .frCfi o n
  | .autoselect => .frId o n
  | .writing => .frBusy o n
  | .sectorErase => .frBusy o n

/-- The operation a one-byte I/O write is (R98). -/
def selectIoWrite (o : Offset) (v : Byte) : Instr :=
  if o = 0 then (if v.extractLsb' 3 5 = 0 then .iowLed v else .iowLedRsvd v)
  else if o = 1 then (if v.getLsbD 7 then .iowBankspiRsvd v else .iowBankspi v)
  else .iowUndef o v

/-- The operation a one-byte I/O read is (R98). -/
def selectIoRead (o : Offset) : Instr :=
  if o = 0 then .iorId else if o = 1 then .iorStatus else .iorUndef o

/-- Format FW (R92, R101). -/
def decodeFlashWrite (c : Position) (szc : SizeCode) (o : Offset) (v : BitVec 32) : Except DecodeError Instr :=
  match szc.size? with
  | none => .ok (.fwBadsize o v)
  | some n => if szc.holds v then .ok (selectFlashWrite c o (n.datum v)) else .error .valueWidth

/-- Format FR (R93, R101). -/
def decodeFlashRead (m : Mode) (szc : SizeCode) (o : Offset) : Instr :=
  match szc.size? with
  | none => .frBadsize o
  | some n => selectFlashRead m o n

/-- Formats IOW and IOR (R94, R101). -/
def decodeIo (dir : Dir) (szc : SizeCode) (o : Offset) (v : BitVec 32) : Instr :=
  if szc = .one then
    match dir with
    | .write => selectIoWrite o (v.setWidth 8)
    | .read => selectIoRead o
  else .ioBadsize dir szc o v

/-- The decoder (R100, R101): the operation a descriptor is in a decode context. -/
def decode (c : Position) (td : TD) : Except DecodeError Instr :=
  if td.zeros ≠ 0 then .error .reservedBits
  else if td.dir = .read ∧ td.value ≠ 0 then .error .readValue
  else
    match td.region with
    | .flash =>
      match td.dir with
      | .write => decodeFlashWrite c td.szc td.offset td.value
      | .read => .ok (decodeFlashRead c.mode td.szc td.offset)
    | .io =>
      if ioWindowSize ≤ td.offset.toNat then .error .ioOffset
      else if td.szc.holds td.value then .ok (decodeIo td.dir td.szc td.offset td.value)
      else .error .valueWidth

/-! ### Encoding -/

/-- The descriptor of an operation, from the rows of R97 to R99. -/
def encode : Instr → TD
  | .fwBadsize o v => pack .flash .write .other o v
  | .fwProgData o d => pack .flash .write d.size.code o d.field
  | .fwReset => pack .flash .write .one 0x00 0xF0
  | .fwCfiq => pack .flash .write .one 0xAA 0x98
  | .fwUnlock1 => pack .flash .write .one 0xAAAA 0xAA
  | .fwUnlock2 => pack .flash .write .one 0x5555 0x55
  | .fwEraseSetup => pack .flash .write .one 0xAAAA 0x80
  | .fwAutosel => pack .flash .write .one 0xAAAA 0x90
  | .fwProgSetup => pack .flash .write .one 0xAAAA 0xA0
  | .fwUnlock3 => pack .flash .write .one 0xAAAA 0xAA
  | .fwUnlock4 => pack .flash .write .one 0x5555 0x55
  | .fwSectorErase o => pack .flash .write .one o 0x30
  | .fwIgnored o d => pack .flash .write d.size.code o d.field
  | .frBadsize o => pack .flash .read .other o 0
  | .frArray o n => pack .flash .read n.code o 0
  | .frCfi o n => pack .flash .read n.code o 0
  | .frId o n => pack .flash .read n.code o 0
  | .frBusy o n => pack .flash .read n.code o 0
  | .iowLed v => pack .io .write .one 0 (v.setWidth 32)
  | .iowLedRsvd v => pack .io .write .one 0 (v.setWidth 32)
  | .iowBankspi v => pack .io .write .one 1 (v.setWidth 32)
  | .iowBankspiRsvd v => pack .io .write .one 1 (v.setWidth 32)
  | .iowUndef o v => pack .io .write .one o (v.setWidth 32)
  | .iorId => pack .io .read .one 0 0
  | .iorStatus => pack .io .read .one 1 0
  | .iorUndef o => pack .io .read .one o 0
  | .ioBadsize dir szc o v => pack .io dir szc o v

/-! ### The contexts of the rows -/

/-- A one-byte command of the cycle parser as R97 tabulates it; `none` is "any offset". -/
structure CommandRow where
  cycle : Cycle
  offset : Option Offset
  value : Byte
deriving DecidableEq, Repr

/-- The rows of R97 whose decode context is `(Normal, k)`. -/
def commandRows : List CommandRow :=
  [⟨.one, some 0xAA, 0x98⟩, ⟨.one, some 0xAAAA, 0xAA⟩, ⟨.two, some 0x5555, 0x55⟩, ⟨.three, some 0xAAAA, 0x80⟩,
   ⟨.three, some 0xAAAA, 0x90⟩, ⟨.three, some 0xAAAA, 0xA0⟩, ⟨.four, some 0xAAAA, 0xAA⟩, ⟨.five, some 0x5555, 0x55⟩,
   ⟨.six, none, 0x30⟩]

/-- A write of datum `d` at `o` is the command of row `r` at cycle `k`. -/
def CommandRow.admits (r : CommandRow) (k : Cycle) (o : Offset) (d : Datum) : Bool :=
  decide (r.cycle = k) && (r.offset.isNone || decide (r.offset = some o)) && decide (d = .byte r.value)

/-- The decode contexts in which the table selects a row (the column "decode context" of R97 to R99, and for
FW.IGNORED "any context in which no row above matches"). -/
def Instr.selectedIn (i : Instr) (c : Position) : Bool :=
  match i with
  | .fwBadsize _ _ => true
  | .fwProgData _ _ => decide (c.mode = .writing)
  | .fwReset => decide (c.mode ≠ .writing)
  | .fwCfiq => decide (c = ⟨.normal, .one⟩)
  | .fwUnlock1 => decide (c = ⟨.normal, .one⟩)
  | .fwUnlock2 => decide (c = ⟨.normal, .two⟩)
  | .fwEraseSetup => decide (c = ⟨.normal, .three⟩)
  | .fwAutosel => decide (c = ⟨.normal, .three⟩)
  | .fwProgSetup => decide (c = ⟨.normal, .three⟩)
  | .fwUnlock3 => decide (c = ⟨.normal, .four⟩)
  | .fwUnlock4 => decide (c = ⟨.normal, .five⟩)
  | .fwSectorErase _ => decide (c = ⟨.normal, .six⟩)
  | .fwIgnored o d =>
      decide (c.mode ≠ .writing) && !(decide (c.mode = .normal) && commandRows.any (fun r => r.admits c.cycle o d))
  | .frBadsize _ => true
  | .frArray _ _ => decide (c.mode = .normal)
  | .frCfi _ _ => decide (c.mode = .queryCFI)
  | .frId _ _ => decide (c.mode = .autoselect)
  | .frBusy _ _ => decide (c.mode = .writing) || decide (c.mode = .sectorErase)
  | .iowLed _ => true
  | .iowLedRsvd _ => true
  | .iowBankspi _ => true
  | .iowBankspiRsvd _ => true
  | .iowUndef _ _ => true
  | .iorId => true
  | .iorStatus => true
  | .iorUndef _ => true
  | .ioBadsize _ _ _ _ => true

/-! ### The table's words

A row's word alone does not say its decode context (R100), so the context is taken from the word: the position after
reset where the word is an operation there, else the first position of an unlock sequence at which it is the expected
command. DESIGN CHOICE (log entry 11), safe. -/

/-- Is the operation one other than FW.IGNORED? -/
def Instr.isNotIgnored : Instr → Bool
  | .fwIgnored _ _ => false
  | _ => true

/-- A descriptor that decodes at `c` to an operation other than FW.IGNORED. -/
def namesOperation (td : TD) (c : Position) : Bool :=
  match decode c td with
  | .ok i => i.isNotIgnored
  | .error _ => false

/-- The decode context a table word is read in. -/
def tableContext (td : TD) : Position :=
  (([Cycle.one, .two, .three, .four, .five, .six].map (Position.mk .normal)).find? (namesOperation td)).getD
    ⟨.normal, .one⟩

/-- The descriptor a table word is: 72 bits, the bits above `nbits` zero. -/
def tableDescriptor (_nbits w : Nat) : Option TD :=
  if w < 2 ^ 72 then some (BitVec.ofNat 72 w) else none

/-- The operation the decoder reads from a table word. -/
def decodeTableWord (nbits w : Nat) : Option Instr :=
  match tableDescriptor nbits w with
  | none => none
  | some td =>
    match decode (tableContext td) td with
    | .ok i => some i
    | .error _ => none

end Sys2Proof
end

