-- ==== Sys2Proof/Machine/State.lean ====
section
/-! DEFINITION. The state of the block (10_state.md R20), the reasons a step can stop, what the host can do (60_exceptions.md
R218) and the state after reset (70_reset_and_hazards.md R230). -/

namespace Sys2Proof.Machine

/-- The fault kinds (60_exceptions.md R201). A fault is taken as a NEXT state with the kind recorded in `State.fault`
(R205); none of these is a stop. -/
inductive FaultKind where
  /-- code 1: a flash access of a size not in {1, 2, 4} -/
  | flashAccessSize
  /-- code 2: an I/O write at offset 0 with `v[7:3] ≠ 0` -/
  | ledReservedBits
  /-- code 3: an I/O write at offset 1 with `v[7] = 1` -/
  | bankSpiReservedBit
  /-- code 4: a translation while `S.bank > 10` -/
  | bankIndex
  /-- code 5: a translated access passes the end of the bank window -/
  | flashSpan
  /-- code 6: an I/O access of a size other than 1 -/
  | ioAccessSize
deriving DecidableEq, Repr

/-- Why the machine stops. -/
inductive Fault where
  /-- Raised by every step, and by every operation, of a state whose `fault` is recorded: the run ended at the faulting
  transaction and no later one has a meaning (R37, R206). Safe: nothing is asserted of such a step. -/
  | runEnded (kind : FaultKind)
deriving DecidableEq, Repr

/-- Why a step is refused. -/
inductive Refusal where
  /-- An arm of `exec` whose instruction has no meaning yet. Safe. No arm uses it. -/
  | notModelled (mnemonic : String)
  /-- Raised by `step` on a queued word that is no descriptor of a transaction (30_encoding.md R91). Safe. -/
  | malformedDescriptor (reason : DecodeError)
  /-- Raised by `step` on a queued transaction whose descriptor has not the size code of its `n` bytes (30_encoding.md R91):
  the two together are no transaction (log entry 8). Safe. -/
  | wrongSizeCode
  /-- Raised by `step` on a transaction the platform does not route to the block: an I/O offset above 14, or a flash
  access that does not lie inside the flash window (20_memory.md R54: "a model refuses it"). Safe. -/
  | notDeliverable
  /-- Raised by `step` on an overlay read outside its window or of a size other than 1, 2, 4, which 43_bootrom_overlay.md
  R192 leaves "outside the spec". Safe. -/
  | outsideOverlay
deriving DecidableEq, Repr

/-- The levels of the output pins (R41). -/
structure Pins where
  led : BitVec 3
  sck : Bool
  cs : Bool
  mosi : Bool
deriving DecidableEq, Repr

/-- What the host can do beside transactions (R218), and to the overlay beside the block (R192, R193). -/
inductive HostAction where
  /-- `InjectStatus(r, m1, m4)`: the levels of the three input pins -/
  | injectStatus (r m1 m4 : Bool)
  /-- observe the output pins -/
  | observePins
  /-- BR.READ: a read of the boot-ROM overlay at a window-relative offset -/
  | overlayRead (o : Nat) (szc : SizeCode)
  /-- BR.WRITE: a write to the boot-ROM overlay -/
  | overlayWrite (o : Nat) (szc : SizeCode) (v : Nat)
deriving DecidableEq, Repr

/-- An interaction of the host (R218). `Init` is `State.resetOf`. -/
inductive HostEvent where
  /-- a flash or I/O transaction: its descriptor (R91) and its size `n` in bytes, which the descriptor's size code 3 does
  not tell (log entry 8) -/
  | transaction (td : TD) (n : Nat)
  /-- any other interaction -/
  | action (a : HostAction)
deriving DecidableEq, Repr

/-- What an interaction hands back to the host (R12, R218). -/
inductive Response where
  | nothing
  | value (d : Datum)
  | pins (p : Pins)
deriving DecidableEq, Repr

/-- The boot-ROM overlay (43_bootrom_overlay.md R190, R191): a window of `512 + extra` bytes with the image right-aligned
in it. -/
structure Overlay where
  extra : Nat
  image : List Byte
deriving DecidableEq, Repr

/-- The flash data store as the cells that differ from the reset image (log entry 13). -/
abbrev Memory := List Host.Cell

/-- The state: R20's table, the configuration that is an argument of every function (R7, log entry 1), the overlay
(R190), and the model's own two fields `bus` (log entry 3) and `response` (log entry 4). -/
structure State where
  /-- the configuration record `Cfg`; no step writes it (R40) -/
  cfg : Config
  /-- `S.mode` (R21) -/
  mode : Mode
  /-- `S.cycle` (R22) -/
  cycle : Cycle
  /-- `S.led` (R26) -/
  led : BitVec 3
  /-- `S.bank` (R27) -/
  bank : BitVec 4
  /-- `S.mosi` (R28) -/
  mosi : Bool
  /-- `S.cs` (R28) -/
  cs : Bool
  /-- `S.sck` (R28) -/
  sck : Bool
  /-- `S.recovery` (R29): true means recovery mode inactive -/
  recovery : Bool
  /-- `S.miso1` (R30) -/
  miso1 : Bool
  /-- `S.miso4` (R30) -/
  miso4 : Bool
  /-- `FLASH` (R33): the cells that differ from `cfg.flashInit`, addresses rising -/
  flash : Memory
  /-- `S.fault` (R37) -/
  fault : Option FaultKind
  /-- `BOOTROM` (R190); no step writes it -/
  overlay : Overlay
  /-- the host's interactions not yet delivered, oldest first (the model's own field) -/
  bus : List HostEvent
  /-- what the last interaction handed back (the model's own field) -/
  response : Response
deriving DecidableEq, Repr

/-- `Reset(Cfg)` (R230), with nothing yet issued by the host. -/
def State.resetOf (cfg : Config) : State where
  cfg := cfg
  mode := .normal
  cycle := .one
  led := cfg.ledReset
  bank := cfg.bankReset
  mosi := false
  cs := false
  sck := false
  recovery := cfg.recoveryStrap
  miso1 := false
  miso4 := false
  flash := []
  fault := none
  overlay := { extra := cfg.bootromExtra, image := cfg.bootromImage.take bootromWindowMin }
  bus := []
  response := .nothing

/-- The machine right after reset: `Reset(Cfg)` for the machine's configuration. -/
def State.reset : State := State.resetOf Config.machine

end Sys2Proof.Machine
end

