-- ==== Sys2Proof/Machine/Ops.lean ====
section
/-! DEFINITION. The operations over the state: the flash data store byte by byte (10_state.md R33) with MemRead and MemWrite
over it (20_memory.md R56, R57), taking a fault (60_exceptions.md R205), what ends a transaction, and the sequencer's
position. -/

namespace Sys2Proof

namespace Machine

/-! ### The flash data store -/

/-- The byte a list of cells holds at an address, if it lists it. -/
def Memory.lookup (m : Memory) (a : Nat) : Option Byte :=
  match m with
  | [] => none
  | (k, b) :: rest => if k = a then some b else Memory.lookup rest a

/-- The list with the address taken out. -/
def Memory.erase (m : Memory) (a : Nat) : Memory :=
  match m with
  | [] => []
  | (k, b) :: rest => if k = a then Memory.erase rest a else (k, b) :: Memory.erase rest a

/-- The list with the byte at the address, in its place. -/
def Memory.insert (m : Memory) (a : Nat) (b : Byte) : Memory :=
  match m with
  | [] => [(a, b)]
  | (k, c) :: rest =>
    if a < k then (a, b) :: (k, c) :: rest
    else if k = a then (a, b) :: rest
    else (k, c) :: Memory.insert rest a b

end Machine

/-- `FLASH_INIT[a]` (R231): what an address not listed in the flash store reads as. -/
def Config.initByte (cfg : Config) (a : Nat) : Byte := (Machine.Memory.lookup cfg.flashInit a).getD 0

namespace Machine

/-- Addresses strictly rising, the first above `low`. -/
def Memory.rising (m : Memory) (low : Nat) : Bool :=
  match m with
  | [] => true
  | (k, _) :: rest => decide (low ≤ k) && Memory.rising rest (k + 1)

/-- The canonical form: rising addresses inside the store, and no cell that holds what it would read as unlisted. -/
def Memory.wf (cfg : Config) (m : Memory) : Bool :=
  Memory.rising m 0 && m.all (fun c => decide (c.1 < flashSize) && decide (c.2 ≠ cfg.initByte c.1))

/-- `FLASH[a]` (R33). -/
def State.flashByte (s : State) (a : Nat) : Byte := (Memory.lookup s.flash a).getD (s.cfg.initByte a)

/-- `FLASH[a] <- b` (R33), keeping the canonical form. -/
def State.writeByte (s : State) (a : Nat) (b : Byte) : State :=
  { s with flash := if b = s.cfg.initByte a then Memory.erase s.flash a else Memory.insert s.flash a b }

/-- `MemRead(p, n)` (R56): the byte at the lowest offset is the least significant. -/
def State.memRead (s : State) (p n : Nat) : Nat :=
  match n with
  | 0 => 0
  | n + 1 => (s.flashByte p).toNat + 0x100 * s.memRead (p + 1) n

/-- `MemWrite(p, n, v)` (R57): `FLASH[p + i] <- v[8i+7 : 8i]` for `i` in `0 .. n-1`. -/
def State.memWrite (s : State) (p n v : Nat) : State :=
  match n with
  | 0 => s
  | n + 1 => (s.writeByte p (BitVec.ofNat 8 v)).memWrite (p + 1) n (v / 0x100)

/-! ### Faults -/

/-- `raise Fault(k)` (R11, R205): no write of the transaction, no value, the kind recorded. -/
def State.raise (s : State) (k : FaultKind) : State := { s with fault := some k, response := .nothing }

/-- The code of a fault kind (R201). -/
def FaultKind.code : FaultKind → Nat
  | .flashAccessSize => 1
  | .ledReservedBits => 2
  | .bankSpiReservedBit => 3
  | .bankIndex => 4
  | .flashSpan => 5
  | .ioAccessSize => 6

/-- Every interaction reads `S.fault` (R20): once it is recorded the run has ended (R37, R206). -/
def whenRunning (s : State) (next : Host.Outcome State Fault Refusal) : Host.Outcome State Fault Refusal :=
  match s.fault with
  | none => next
  | some k => .fault (.runEnded k)

/-! ### Ends of a transaction -/

/-- `return v` of a read. -/
def State.answer (s : State) (d : Datum) : State := { s with response := .value d }

/-- `return` of a write. -/
def State.finish (s : State) : State := { s with response := .nothing }

/-! ### The sequencer -/

/-- The decode context `(S.mode, S.cycle)` (R23). -/
def State.position (s : State) : Position := ⟨s.mode, s.cycle⟩

/-- `(S.mode, S.cycle) <- (m, c)` (R9). -/
def State.moveTo (s : State) (m : Mode) (c : Cycle) : State := { s with mode := m, cycle := c }

/-! ### The output pins -/

/-- The pins as functions of the state (R41). -/
def State.pins (s : State) : Pins := { led := s.led, sck := s.sck, cs := s.cs, mosi := s.mosi }

end Machine

end Sys2Proof
end

