-- ==== Sys2Proof/Machine/Flags.lean ====
section
/-! DEFINITION. The status bits (10_state.md R38: the block has no condition codes; its only status bits are recovery, miso1
and miso4, read together with the bank through I/O offset 1) and the fields of the register writes (R31, R32). -/

namespace Sys2Proof.Machine

/-- The status byte (R32, 40_control_registers.md R125): recovery, 0, miso1, miso4, bank. -/
def State.statusByte (s : State) : Byte :=
  BitVec.ofBool s.recovery ++ 0#1 ++ BitVec.ofBool s.miso1 ++ BitVec.ofBool s.miso4 ++ s.bank

/-- `S.led <- v[2:0]` (R31). -/
def State.setLed (s : State) (v : Byte) : State := { s with led := v.extractLsb' 0 3 }

/-- `S.bank <- v[3:0]; S.mosi <- v[4]; S.cs <- v[5]; S.sck <- v[6]` (R32). -/
def State.setBankSpi (s : State) (v : Byte) : State :=
  { s with bank := v.extractLsb' 0 4, mosi := v.getLsbD 4, cs := v.getLsbD 5, sck := v.getLsbD 6 }

/-- The input pins (R41, 60_exceptions.md R218). -/
def State.setStatus (s : State) (r m1 m4 : Bool) : State := { s with recovery := r, miso1 := m1, miso4 := m4 }

end Sys2Proof.Machine
end

