-- ==== Sys2Proof/Machine/Operands.lean ====
section
/-! DEFINITION. How operands are formed (30_encoding.md R95): sizes and data as naturals, the bank table and the address
translator (20_memory.md R60 to R63), the CFI index and the identification selector (10_state.md R35, R36), the flash window
(R54) and the overlay's bytes (43_bootrom_overlay.md R191). -/

namespace Sys2Proof

/-! ### Sizes and data -/

/-- The number of bytes of an access size. -/
def Size.bytes : Size → Nat
  | .one => 1
  | .two => 2
  | .four => 4

/-- The value of a datum. -/
def Datum.toNat : Datum → Nat
  | .byte v => v.toNat
  | .half v => v.toNat
  | .word v => v.toNat

/-- The datum of `8n` bits with a value: `zext_8n` of a value that fits (R8). -/
def Size.datumOf (n : Size) (v : Nat) : Datum :=
  match n with
  | .one => .byte (BitVec.ofNat 8 v)
  | .two => .half (BitVec.ofNat 16 v)
  | .four => .word (BitVec.ofNat 32 v)

/-! ### The bank table and the translator -/

/-- `size` of a bank descriptor (R34). -/
def BankDescriptor.size : BankDescriptor → Nat
  | .mib1 _ => 0x100000
  | .kib512 _ => 0x80000
  | .kib256 _ => 0x40000

/-- `offset` of a bank descriptor (R34). -/
def BankDescriptor.offset : BankDescriptor → Nat
  | .mib1 o => o.val
  | .kib512 o => o.val
  | .kib256 o => o.val

/-- `translate(l, b)` (R60). -/
def translate (l : Nat) (b : BankDescriptor) : Nat := (l % b.size) ||| b.offset

namespace Machine

/-- `BANK_TABLE[S.bank]`, where `S.bank` is an index of it (R62). -/
def State.selectedBank (s : State) : Option BankDescriptor := s.cfg.bankTable[s.bank.toNat]?

/-- A translating access of `n` bytes at logical offset `l` (R62, R63): the index check, the span check, then the
access at the physical offset. -/
def withTranslation (s : State) (l n : Nat) (access : Nat → State) : State :=
  match s.selectedBank with
  | none => s.raise .bankIndex
  | some b =>
    if l % b.size + n > b.size then s.raise .flashSpan else access (translate l b)

end Machine

/-! ### The CFI table and the identification bytes -/

/-- `CFI_LEN` (R35). -/
def CfiTable.length (t : CfiTable) : Nat := 0x21 + t.after.length

/-- `CFI_TABLE[i]` (R35), for `i < CFI_LEN`. -/
def CfiTable.entry (t : CfiTable) (i : Nat) : Byte :=
  if i < 0x20 then t.before[i]?.getD 0 else if i = 0x20 then 0x51 else t.after.getD (i - 0x21) 0

/-- The CFI index of R95 (c): `(if n = 1 then o else 2 * o) mod CFI_LEN`, without truncation (R76). -/
def cfiIndex (t : CfiTable) (o : Nat) (n : Size) : Nat :=
  (if n = .one then o else 2 * o) % t.length

/-- `ID_TABLE(o)` (R36). -/
def idTable (o : Nat) : Byte := if o = 0 then manufacturerId else if o = 2 then deviceId else 0x00

/-! ### The flash window -/

/-- `FLASH_WINDOW_SIZE` (R7, R51). -/
def Config.flashWindowSize (cfg : Config) : Nat := flashWindowMin + cfg.flashWindowExtra.val

/-- An access of `n` bytes at `o` lies inside a window of `w` bytes: its offset does (R54, first sentence), and so does its
last byte (R54, last sentence). -/
def insideWindow (w o n : Nat) : Bool := decide (o < w) && decide (o + n ≤ w)

/-- The access of `n` bytes at `o` lies inside the flash window (R54), `n` any number. The least window R7 admits is asked
first: an access inside it is inside every window, whatever the configuration (log entry 9). -/
def Config.inFlashWindow (cfg : Config) (o n : Nat) : Bool :=
  insideWindow flashWindowMin o n || insideWindow cfg.flashWindowSize o n

/-! ### The overlay -/

namespace Machine

/-- `BOOTROM_WINDOW_SIZE` (R191). -/
def Overlay.windowSize (r : Overlay) : Nat := bootromWindowMin + r.extra

/-- `BOOTROM[o]` (R191, R194): the image right-aligned in the window, 0 in front of it. -/
def Overlay.byte (r : Overlay) (o : Nat) : Byte :=
  if o < r.windowSize - r.image.length then 0
  else r.image.getD (o - (r.windowSize - r.image.length)) 0

/-- `n` bytes of the overlay, little-endian (R192). -/
def Overlay.read (r : Overlay) (o n : Nat) : Nat :=
  match n with
  | 0 => 0
  | n + 1 => (r.byte o).toNat + 0x100 * r.read (o + 1) n

end Machine

end Sys2Proof
end

