-- ==== Sys2Proof/Machine/Bus.lean ====
section
/-! DEFINITION. The host's side of a step (60_exceptions.md R218, R219): taking the oldest interaction, delivering a
transaction to the block (20_memory.md R54) and the interactions that are no transactions. -/

namespace Sys2Proof.Machine

/-- What a step finds to do. -/
inductive Fetched where
  /-- the run has ended at a fault (R206) -/
  | ended (kind : FaultKind)
  /-- the host has issued nothing (R219) -/
  | idle
  /-- a transaction that reaches the block, and the state it finds -/
  | instr (i : Instr) (s : State)
  /-- an interaction that is no transaction, and the state it finds -/
  | action (a : HostAction) (s : State)
  /-- a transaction that does not reach the block -/
  | rejected (r : Refusal)

/-- The refusal of a word that is no descriptor of a deliverable transaction. -/
def rejection (e : DecodeError) : Refusal :=
  match e with
  | .ioOffset => .notDeliverable
  | .reservedBits => .malformedDescriptor .reservedBits
  | .valueWidth => .malformedDescriptor .valueWidth
  | .readValue => .malformedDescriptor .readValue

/-- The platform routes the transaction of `n` bytes to the block (R54, R218): an I/O offset of 0 to 14, a flash access
inside the flash window. -/
def deliverable (cfg : Config) (td : TD) (n : Nat) : Bool :=
  match td.region with
  | .flash => cfg.inFlashWindow td.offset.toNat n
  | .io => decide (td.offset.toNat < ioWindowSize)

/-- Deliver a transaction of `n` bytes: decode its descriptor in the context it finds (R100), whose size code must be
that of `n` (R91), and route it. -/
def deliver (s : State) (td : TD) (n : Nat) : Fetched :=
  match decode s.position td with
  | .error e => .rejected (rejection e)
  | .ok i =>
    if td.szc ≠ SizeCode.ofBytes n then .rejected .wrongSizeCode
    else if deliverable s.cfg td n then .instr i s
    else .rejected .notDeliverable

/-- Take the oldest interaction (R71). -/
def fetch (s : State) : Fetched :=
  match s.fault with
  | some k => .ended k
  | none =>
    match s.bus with
    | [] => .idle
    | .transaction td n :: rest => deliver { s with bus := rest } td n
    | .action a :: rest => .action a { s with bus := rest }

/-- `InjectStatus(r, m1, m4)` (R218). -/
def hostInjectStatus (r m1 m4 : Bool) (s : State) : Host.Outcome State Fault Refusal :=
  whenRunning s (.next (s.setStatus r m1 m4).finish)

/-- Observe the output pins (R218): the block does nothing. -/
def hostObservePins (s : State) : Host.Outcome State Fault Refusal :=
  whenRunning s (.next { s with response := .pins s.pins })

/-- BR.READ (43_bootrom_overlay.md R192): little-endian bytes of the overlay; sizes 1, 2, 4 inside the window. -/
def hostOverlayRead (o : Nat) (szc : SizeCode) (s : State) : Host.Outcome State Fault Refusal :=
  whenRunning s
    (match szc.size? with
    | none => .refused .outsideOverlay
    | some n =>
      if o + n.bytes ≤ s.overlay.windowSize then .next (s.answer (n.datumOf (s.overlay.read o n.bytes)))
      else .refused .outsideOverlay)

/-- BR.WRITE (R193): ignored, for any offset, value and size. -/
def hostOverlayWrite (_o : Nat) (_szc : SizeCode) (_v : Nat) (s : State) : Host.Outcome State Fault Refusal :=
  whenRunning s (.next s.finish)

/-- An interaction that is no transaction. -/
def hostAction (a : HostAction) (s : State) : Host.Outcome State Fault Refusal :=
  match a with
  | .injectStatus r m1 m4 => hostInjectStatus r m1 m4 s
  | .observePins => hostObservePins s
  | .overlayRead o szc => hostOverlayRead o szc s
  | .overlayWrite o szc v => hostOverlayWrite o szc v s

/-- With no interaction the block does nothing (41_flash_commands.md R156, R219). -/
def idle (s : State) : Host.Outcome State Fault Refusal := .next s

/-- `s` with the transaction of a descriptor as the host's next interaction, in the decode context `c`. -/
def State.withTransaction (s : State) (c : Position) (td : TD) : State :=
  { s with mode := c.mode, cycle := c.cycle, bus := .transaction td td.szc.bytes :: s.bus }

end Sys2Proof.Machine
end

