-- ==== Sys2Proof/Machine/FlashReads.lean ====
section
/-! DEFINITION. The flash-region reads (42_flash_reads.md R170 to R179), one meaning per row. A read changes no state of the
block (R171): it only hands a value back. -/

namespace Sys2Proof.Machine

/-- FR.BADSIZE (R179): `raise Fault(FlashAccessSize)`. -/
def execFrBadsize (_o : Offset) (s : State) : Host.Outcome State Fault Refusal :=
  whenRunning s (.next (s.raise .flashAccessSize))

/-- FR.ARRAY (R172): `MemRead(translate(o, S.bank), n)`. -/
def execFrArray (o : Offset) (n : Size) (s : State) : Host.Outcome State Fault Refusal :=
  whenRunning s (.next (withTranslation s o.toNat n.bytes fun p => s.answer (n.datumOf (s.memRead p n.bytes))))

/-- FR.CFI (R174): `zext(CFI_TABLE[idx])`. -/
def execFrCfi (o : Offset) (n : Size) (s : State) : Host.Outcome State Fault Refusal :=
  whenRunning s (.next (s.answer (n.datumOf (s.cfg.cfiTable.entry (cfiIndex s.cfg.cfiTable o.toNat n)).toNat)))

/-- FR.ID (R176): `zext(ID_TABLE(o))`. -/
def execFrId (o : Offset) (n : Size) (s : State) : Host.Outcome State Fault Refusal :=
  whenRunning s (.next (s.answer (n.datumOf (idTable o.toNat).toNat)))

/-- FR.BUSY (R178): 0, of `8n` bits. -/
def execFrBusy (_o : Offset) (n : Size) (s : State) : Host.Outcome State Fault Refusal :=
  whenRunning s (.next (s.answer (n.datumOf 0)))

end Sys2Proof.Machine
end

