-- ==== Sys2Proof/Machine/FlashWrites.lean ====
section
/-! DEFINITION. The flash-region writes (41_flash_commands.md R140 to R155), one meaning per row. The decoder selects a row
only in its decode context (R100), so a meaning is the rule's own pseudocode. -/

namespace Sys2Proof.Machine

/-- FW.BADSIZE (R155): `raise Fault(FlashAccessSize)`. -/
def execFwBadsize (_o : Offset) (_v : BitVec 32) (s : State) : Host.Outcome State Fault Refusal :=
  whenRunning s (.next (s.raise .flashAccessSize))

/-- FW.PROG_DATA (R153): store the datum at the translated offset, back to `(Normal, 1)`. -/
def execFwProgData (o : Offset) (d : Datum) (s : State) : Host.Outcome State Fault Refusal :=
  whenRunning s (.next (withTranslation s o.toNat d.size.bytes fun p =>
    ((s.memWrite p d.size.bytes d.toNat).moveTo .normal .one).finish))

/-- FW.RESET (R142): `(S.mode, S.cycle) <- (Normal, 1)`. -/
def execFwReset (s : State) : Host.Outcome State Fault Refusal :=
  whenRunning s (.next (s.moveTo .normal .one).finish)

/-- FW.CFIQ (R144): `S.mode <- QueryCFI`. -/
def execFwCfiq (s : State) : Host.Outcome State Fault Refusal :=
  whenRunning s (.next (s.moveTo .queryCFI s.cycle).finish)

/-- FW.UNLOCK1 (R145): `S.cycle <- 2`. -/
def execFwUnlock1 (s : State) : Host.Outcome State Fault Refusal :=
  whenRunning s (.next (s.moveTo s.mode .two).finish)

/-- FW.UNLOCK2 (R146): `S.cycle <- 3`. -/
def execFwUnlock2 (s : State) : Host.Outcome State Fault Refusal :=
  whenRunning s (.next (s.moveTo s.mode .three).finish)

/-- FW.ERASE_SETUP (R147): `S.cycle <- 4`. -/
def execFwEraseSetup (s : State) : Host.Outcome State Fault Refusal :=
  whenRunning s (.next (s.moveTo s.mode .four).finish)

/-- FW.AUTOSEL (R148): `S.mode <- Autoselect`. -/
def execFwAutosel (s : State) : Host.Outcome State Fault Refusal :=
  whenRunning s (.next (s.moveTo .autoselect s.cycle).finish)

/-- FW.PROG_SETUP (R149): `S.mode <- Writing`. -/
def execFwProgSetup (s : State) : Host.Outcome State Fault Refusal :=
  whenRunning s (.next (s.moveTo .writing s.cycle).finish)

/-- FW.UNLOCK3 (R150): `S.cycle <- 5`. -/
def execFwUnlock3 (s : State) : Host.Outcome State Fault Refusal :=
  whenRunning s (.next (s.moveTo s.mode .five).finish)

/-- FW.UNLOCK4 (R151): `S.cycle <- 6`. -/
def execFwUnlock4 (s : State) : Host.Outcome State Fault Refusal :=
  whenRunning s (.next (s.moveTo s.mode .six).finish)

/-- FW.SECTOR_ERASE (R152): `(S.mode, S.cycle) <- (SectorErase, 1)`; FLASH is not changed and the offset is ignored. -/
def execFwSectorErase (_o : Offset) (s : State) : Host.Outcome State Fault Refusal :=
  whenRunning s (.next (s.moveTo .sectorErase .one).finish)

/-- FW.IGNORED (R154): no field of `S` and no byte of FLASH changes. -/
def execFwIgnored (_o : Offset) (_d : Datum) (s : State) : Host.Outcome State Fault Refusal :=
  whenRunning s (.next s.finish)

end Sys2Proof.Machine
end

