-- ==== Sys2Proof/Machine/Registers.lean ====
section
/-! DEFINITION. The operations of the control I/O window (40_control_registers.md R120 to R127), one meaning per row. None of
them touches the sequencer or FLASH (R120). -/

namespace Sys2Proof.Machine

/-- IOW.LED (R121): the reserved bits are checked, then `S.led <- v[2:0]`. -/
def execIowLed (v : Byte) (s : State) : Host.Outcome State Fault Refusal :=
  whenRunning s (.next (if v.extractLsb' 3 5 ≠ 0 then s.raise .ledReservedBits else (s.setLed v).finish))

/-- IOW.LED.RSVD (R121): `raise Fault(LedReservedBits)`. -/
def execIowLedRsvd (_v : Byte) (s : State) : Host.Outcome State Fault Refusal :=
  whenRunning s (.next (s.raise .ledReservedBits))

/-- IOW.BANKSPI (R122): the reserved bit is checked, then the four fields are written. -/
def execIowBankspi (v : Byte) (s : State) : Host.Outcome State Fault Refusal :=
  whenRunning s (.next (if v.getLsbD 7 then s.raise .bankSpiReservedBit else (s.setBankSpi v).finish))

/-- IOW.BANKSPI.RSVD (R122): `raise Fault(BankSpiReservedBit)`. -/
def execIowBankspiRsvd (_v : Byte) (s : State) : Host.Outcome State Fault Refusal :=
  whenRunning s (.next (s.raise .bankSpiReservedBit))

/-- IOW.UNDEF (R123): ignored. -/
def execIowUndef (_o : Offset) (_v : Byte) (s : State) : Host.Outcome State Fault Refusal :=
  whenRunning s (.next s.finish)

/-- IOR.ID (R124): `return 0x55`. -/
def execIorId (s : State) : Host.Outcome State Fault Refusal :=
  whenRunning s (.next (s.answer (.byte sentinel)))

/-- IOR.STATUS (R125): the status byte. -/
def execIorStatus (s : State) : Host.Outcome State Fault Refusal :=
  whenRunning s (.next (s.answer (.byte s.statusByte)))

/-- IOR.UNDEF (R126): `return 0`. -/
def execIorUndef (_o : Offset) (s : State) : Host.Outcome State Fault Refusal :=
  whenRunning s (.next (s.answer (.byte 0x00)))

/-- IO.BADSIZE (R127): `raise Fault(IoAccessSize)`. -/
def execIoBadsize (_dir : Dir) (_szc : SizeCode) (_o : Offset) (_v : BitVec 32) (s : State) :
    Host.Outcome State Fault Refusal :=
  whenRunning s (.next (s.raise .ioAccessSize))

end Sys2Proof.Machine
end

