-- ==== Sys2Proof/Machine/Dispatch.lean ====
section
/-! DEFINITION. One arm per operation, each one direct call of its meaning. -/

namespace Sys2Proof.Machine

def exec (i : Instr) (s : State) : Host.Outcome State Fault Refusal :=
  match i with
  | .fwBadsize o v => Sys2Proof.Machine.execFwBadsize o v s
  | .fwProgData o d => Sys2Proof.Machine.execFwProgData o d s
  | .fwReset => Sys2Proof.Machine.execFwReset s
  | .fwCfiq => Sys2Proof.Machine.execFwCfiq s
  | .fwUnlock1 => Sys2Proof.Machine.execFwUnlock1 s
  | .fwUnlock2 => Sys2Proof.Machine.execFwUnlock2 s
  | .fwEraseSetup => Sys2Proof.Machine.execFwEraseSetup s
  | .fwAutosel => Sys2Proof.Machine.execFwAutosel s
  | .fwProgSetup => Sys2Proof.Machine.execFwProgSetup s
  | .fwUnlock3 => Sys2Proof.Machine.execFwUnlock3 s
  | .fwUnlock4 => Sys2Proof.Machine.execFwUnlock4 s
  | .fwSectorErase o => Sys2Proof.Machine.execFwSectorErase o s
  | .fwIgnored o d => Sys2Proof.Machine.execFwIgnored o d s
  | .frBadsize o => Sys2Proof.Machine.execFrBadsize o s
  | .frArray o n => Sys2Proof.Machine.execFrArray o n s
  | .frCfi o n => Sys2Proof.Machine.execFrCfi o n s
  | .frId o n => Sys2Proof.Machine.execFrId o n s
  | .frBusy o n => Sys2Proof.Machine.execFrBusy o n s
  | .iowLed v => Sys2Proof.Machine.execIowLed v s
  | .iowLedRsvd v => Sys2Proof.Machine.execIowLedRsvd v s
  | .iowBankspi v => Sys2Proof.Machine.execIowBankspi v s
  | .iowBankspiRsvd v => Sys2Proof.Machine.execIowBankspiRsvd v s
  | .iowUndef o v => Sys2Proof.Machine.execIowUndef o v s
  | .iorId => Sys2Proof.Machine.execIorId s
  | .iorStatus => Sys2Proof.Machine.execIorStatus s
  | .iorUndef o => Sys2Proof.Machine.execIorUndef o s
  | .ioBadsize dir szc o v => Sys2Proof.Machine.execIoBadsize dir szc o v s

end Sys2Proof.Machine
end

