-- ==== Sys2Proof/Machine/Step.lean ====
section
/-! DEFINITION. One step: the host's oldest interaction (60_exceptions.md R218, 20_memory.md R70). -/

namespace Sys2Proof.Machine

/-- One step of the machine. -/
def step (s : State) : Host.Outcome State Fault Refusal :=
  match fetch s with
  | .ended k => .fault (.runEnded k)
  | .idle => idle s
  | .instr i s' => exec i s'
  | .action a s' => hostAction a s'
  | .rejected r => .refused r

/-- `s` with the table word `w` as the next interaction, at the position the word is read in (log entry 11). -/
def State.withFetchWord (s : State) (nbits w : Nat) : State :=
  match tableDescriptor nbits w with
  | some td => s.withTransaction (tableContext td) td
  | none => s

end Sys2Proof.Machine
end

