-- ==== Sys2Proof/Machine/Listing.lean ====
section
/-! DEFINITION. The transaction functions of R12 as the spec lists them whole: `IoWrite` and `IoRead` (40_control_registers.md
R120 with R121 to R127), `FlashWrite` (41_flash_commands.md R140) and `FlashRead` (42_flash_reads.md R170), over the naturals
`o`, `v`, `n` of a transaction. `exec` does not use them: they are the second description that claims compare it with. -/

namespace Sys2Proof.Machine.Listing

/-- The natural sizes a size code stands for (R91). -/
def stands (szc : SizeCode) (n : Nat) : Prop :=
  match szc with
  | .one => n = 1
  | .two => n = 2
  | .four => n = 4
  | .other => n ≠ 1 ∧ n ≠ 2 ∧ n ≠ 4

/-- The bits `hi` down to `lo` of a value (R8). -/
def slice (v hi lo : Nat) : Nat := v / 2 ^ lo % 2 ^ (hi + 1 - lo)

/-- The value of `8n` bits a read of size `n` returns (R67). -/
def returned (n v : Nat) : Response :=
  if n = 1 then .value (.byte (BitVec.ofNat 8 v))
  else if n = 2 then .value (.half (BitVec.ofNat 16 v))
  else .value (.word (BitVec.ofNat 32 v))

/-- `FlashWrite(o, v, n)` (R140), test by test in its order. -/
def flashWrite (o v n : Nat) (s : State) : State :=
  if ¬(n = 1 ∨ n = 2 ∨ n = 4) then { s with fault := some .flashAccessSize, response := .nothing }
  else if s.mode = .writing then
    if s.bank.toNat > 10 then { s with fault := some .bankIndex, response := .nothing }
    else
      match s.cfg.bankTable[s.bank.toNat]? with
      | none => s
      | some b =>
        if o % b.size + n > b.size then { s with fault := some .flashSpan, response := .nothing }
        else { s.memWrite (o % b.size ||| b.offset) n v with mode := .normal, cycle := .one, response := .nothing }
  else if n = 1 ∧ o = 0x00 ∧ v = 0xF0 then { s with mode := .normal, cycle := .one, response := .nothing }
  else if s.mode ≠ .normal then { s with response := .nothing }
  else if n ≠ 1 then { s with response := .nothing }
  else
    match s.cycle with
    | .one =>
      if o = 0xAA ∧ v = 0x98 then { s with mode := .queryCFI, response := .nothing }
      else if o = 0xAAAA ∧ v = 0xAA then { s with cycle := .two, response := .nothing }
      else { s with response := .nothing }
    | .two =>
      if o = 0x5555 ∧ v = 0x55 then { s with cycle := .three, response := .nothing }
      else { s with response := .nothing }
    | .three =>
      if o = 0xAAAA ∧ v = 0x80 then { s with cycle := .four, response := .nothing }
      else if o = 0xAAAA ∧ v = 0x90 then { s with mode := .autoselect, response := .nothing }
      else if o = 0xAAAA ∧ v = 0xA0 then { s with mode := .writing, response := .nothing }
      else { s with response := .nothing }
    | .four =>
      if o = 0xAAAA ∧ v = 0xAA then { s with cycle := .five, response := .nothing }
      else { s with response := .nothing }
    | .five =>
      if o = 0x5555 ∧ v = 0x55 then { s with cycle := .six, response := .nothing }
      else { s with response := .nothing }
    | .six =>
      if v = 0x30 then { s with mode := .sectorErase, cycle := .one, response := .nothing }
      else { s with response := .nothing }

/-- `FlashRead(o, n)` (R170). -/
def flashRead (o n : Nat) (s : State) : State :=
  if ¬(n = 1 ∨ n = 2 ∨ n = 4) then { s with fault := some .flashAccessSize, response := .nothing }
  else
    match s.mode with
    | .normal =>
      if s.bank.toNat > 10 then { s with fault := some .bankIndex, response := .nothing }
      else
        match s.cfg.bankTable[s.bank.toNat]? with
        | none => s
        | some b =>
          if o % b.size + n > b.size then { s with fault := some .flashSpan, response := .nothing }
          else { s with response := returned n (s.memRead (o % b.size ||| b.offset) n) }
    | .queryCFI =>
      { s with
        response :=
          returned n (s.cfg.cfiTable.entry ((if n = 1 then o else 2 * o) % s.cfg.cfiTable.length)).toNat }
    | .autoselect => { s with response := returned n (if o = 0 then 0x01 else if o = 2 then 0xC4 else 0x00) }
    | .writing => { s with response := returned n 0 }
    | .sectorErase => { s with response := returned n 0 }

/-- `IoWrite(o, v, n)` (R120 to R123, R127), for `o` in 0..14. -/
def ioWrite (o v n : Nat) (s : State) : State :=
  if n ≠ 1 then { s with fault := some .ioAccessSize, response := .nothing }
  else if o = 0 then
    if slice v 7 3 ≠ 0 then { s with fault := some .ledReservedBits, response := .nothing }
    else { s with led := BitVec.ofNat 3 (slice v 2 0), response := .nothing }
  else if o = 1 then
    if slice v 7 7 = 1 then { s with fault := some .bankSpiReservedBit, response := .nothing }
    else
      { s with
        bank := BitVec.ofNat 4 (slice v 3 0), mosi := decide (slice v 4 4 = 1), cs := decide (slice v 5 5 = 1),
        sck := decide (slice v 6 6 = 1), response := .nothing }
  else { s with response := .nothing }

/-- `IoRead(o, n)` (R120, R124 to R127), for `o` in 0..14. -/
def ioRead (o n : Nat) (s : State) : State :=
  if n ≠ 1 then { s with fault := some .ioAccessSize, response := .nothing }
  else if o = 0 then { s with response := returned 1 0x55 }
  else if o = 1 then
    { s with
      response :=
        returned 1 (2 ^ 7 * s.recovery.toNat + 2 ^ 5 * s.miso1.toNat + 2 ^ 4 * s.miso4.toNat + s.bank.toNat) }
  else { s with response := returned 1 0 }

end Sys2Proof.Machine.Listing
end

