-- ==== Sys2Proof/Machine/Script.lean ====
section
/-! DEFINITION. The spec's notation for transactions and sequences of them (30_encoding.md R105, R106), and what the block does
when the host issues them one after another (20_memory.md R71). -/

namespace Sys2Proof.Machine

/-- `fw1 o, v` (R105). -/
def fw1 (o : Offset) (v : Byte) : TD := pack .flash .write .one o (v.setWidth 32)
/-- `fw2 o, v` (R105). -/
def fw2 (o : Offset) (v : BitVec 16) : TD := pack .flash .write .two o (v.setWidth 32)
/-- `fw4 o, v` (R105). -/
def fw4 (o : Offset) (v : BitVec 32) : TD := pack .flash .write .four o v
/-- `fr1 o`, `fr2 o`, `fr4 o` (R105). -/
def fr (n : Size) (o : Offset) : TD := pack .flash .read n.code o 0
/-- A flash write of any accepted size. -/
def fw (o : Offset) (d : Datum) : TD := pack .flash .write d.size.code o d.field
/-- `iow o, v` (R105). -/
def iow (o : Offset) (v : Byte) : TD := pack .io .write .one o (v.setWidth 32)
/-- `ior o` (R105). -/
def ior (o : Offset) : TD := pack .io .read .one o 0

/-- `UNLOCK` (R106). -/
def unlock : List TD := [fw1 0xAAAA 0xAA, fw1 0x5555 0x55]
/-- `CFI_ENTER` (R106). -/
def cfiEnter : List TD := [fw1 0xAA 0x98]
/-- `AUTOSELECT` (R106). -/
def autoselect : List TD := unlock ++ [fw1 0xAAAA 0x90]
/-- `PROGRAM1`, `PROGRAM2`, `PROGRAM4` (R106): the datum's size tells which. -/
def program (o : Offset) (d : Datum) : List TD := unlock ++ [fw1 0xAAAA 0xA0, fw o d]
/-- `SECTOR_ERASE` (R106). -/
def sectorErase (o : Offset) : List TD :=
  unlock ++ [fw1 0xAAAA 0x80, fw1 0xAAAA 0xAA, fw1 0x5555 0x55, fw1 o 0x30]
/-- `RESET` (R106). -/
def resetCommand : TD := fw1 0x00 0xF0

/-- The host issues one transaction of `n` bytes and the block takes it, before whatever else is pending. -/
def State.receiveSized (s : State) (td : TD) (n : Nat) : Host.Outcome State Fault Refusal :=
  step { s with bus := .transaction td n :: s.bus }

/-- The host issues one transaction, of the size its descriptor names. -/
def State.receive (s : State) (td : TD) : Host.Outcome State Fault Refusal := s.receiveSized td td.szc.bytes

/-- The host issues transactions one after another. -/
def State.receiveAll (s : State) (tds : List TD) : Host.Outcome State Fault Refusal :=
  match tds with
  | [] => .next s
  | td :: rest =>
    match s.receive td with
    | .next t => t.receiveAll rest
    | .fault k => .fault k
    | .refused r => .refused r

end Sys2Proof.Machine
end

