-- ==== Sys2Proof/Safety.lean ====
section
/-! DEFINITION. What claims about the machine speak of: the reachable positions (10_state.md R24), the invariant of a state,
the parts of a state a frame names, and which operations store, read or write registers. -/

namespace Sys2Proof

/-- The ten positions of R24. -/
def Position.reachable (c : Position) : Bool :=
  match c.mode with
  | .normal => true
  | .queryCFI => decide (c.cycle = .one)
  | .autoselect => decide (c.cycle = .three)
  | .writing => decide (c.cycle = .three)
  | .sectorErase => decide (c.cycle = .one)

/-- `S.cycle` as the number it is (R22). -/
def Cycle.toNat : Cycle → Nat
  | .one => 1
  | .two => 2
  | .three => 3
  | .four => 4
  | .five => 5
  | .six => 6

/-- The operations of formats FR and IOR. -/
def Instr.reads : Instr → Bool
  | .frBadsize _ => true
  | .frArray _ _ => true
  | .frCfi _ _ => true
  | .frId _ _ => true
  | .frBusy _ _ => true
  | .iorId => true
  | .iorStatus => true
  | .iorUndef _ => true
  | .ioBadsize dir _ _ _ => decide (dir = .read)
  | .fwBadsize _ _ => false
  | .fwProgData _ _ => false
  | .fwReset => false
  | .fwCfiq => false
  | .fwUnlock1 => false
  | .fwUnlock2 => false
  | .fwEraseSetup => false
  | .fwAutosel => false
  | .fwProgSetup => false
  | .fwUnlock3 => false
  | .fwUnlock4 => false
  | .fwSectorErase _ => false
  | .fwIgnored _ _ => false
  | .iowLed _ => false
  | .iowLedRsvd _ => false
  | .iowBankspi _ => false
  | .iowBankspiRsvd _ => false
  | .iowUndef _ _ => false

/-- The operations of the control I/O window. -/
def Instr.ofIoWindow : Instr → Bool
  | .iowLed _ => true
  | .iowLedRsvd _ => true
  | .iowBankspi _ => true
  | .iowBankspiRsvd _ => true
  | .iowUndef _ _ => true
  | .iorId => true
  | .iorStatus => true
  | .iorUndef _ => true
  | .ioBadsize _ _ _ _ => true
  | .fwBadsize _ _ => false
  | .fwProgData _ _ => false
  | .fwReset => false
  | .fwCfiq => false
  | .fwUnlock1 => false
  | .fwUnlock2 => false
  | .fwEraseSetup => false
  | .fwAutosel => false
  | .fwProgSetup => false
  | .fwUnlock3 => false
  | .fwUnlock4 => false
  | .fwSectorErase _ => false
  | .fwIgnored _ _ => false
  | .frBadsize _ => false
  | .frArray _ _ => false
  | .frCfi _ _ => false
  | .frId _ _ => false
  | .frBusy _ _ => false

/-- The operations that complete a sequence, the terminal actions of R22: reset, program commit, erase entry. -/
def Instr.isTerminal (i : Instr) : Prop :=
  i = .fwReset ∨ (∃ o d, i = .fwProgData o d) ∨ ∃ o, i = .fwSectorErase o

/-- The matching steps of an unlock sequence, those that advance the cycle (R22, R145 to R151). -/
def Instr.isStep (i : Instr) : Prop :=
  i = .fwUnlock1 ∨ i = .fwUnlock2 ∨ i = .fwEraseSetup ∨ i = .fwUnlock3 ∨ i = .fwUnlock4

namespace Machine

/-- The invariant: a reachable position, a flash store in canonical form, an overlay image of at most 512 bytes (R191). -/
def State.Inv (s : State) : Prop :=
  s.position.reachable = true ∧ Memory.wf s.cfg s.flash = true ∧ s.overlay.image.length ≤ bootromWindowMin

/-- The control registers, the SPI outputs and the status inputs are the same (R25 to R30). -/
def State.sameRegisters (s t : State) : Prop :=
  t.led = s.led ∧ t.bank = s.bank ∧ t.mosi = s.mosi ∧ t.cs = s.cs ∧ t.sck = s.sck ∧ t.recovery = s.recovery ∧
    t.miso1 = s.miso1 ∧ t.miso4 = s.miso4

/-- Every byte of FLASH reads the same. -/
def State.sameFlash (s t : State) : Prop := ∀ a, t.flashByte a = s.flashByte a

/-- What no transaction touches: the configuration, the overlay and the host's pending interactions (R40, R190). -/
def State.sameSurroundings (s t : State) : Prop := t.cfg = s.cfg ∧ t.overlay = s.overlay ∧ t.bus = s.bus

/-- The outcome is a next state. -/
def isNext (x : Host.Outcome State Fault Refusal) : Bool :=
  match x with
  | .next _ => true
  | .fault _ => false
  | .refused _ => false

end Machine

end Sys2Proof
end

