-- ==== Sys2Proof/Certificates/Slice0/Obligations.lean ====
section
/-! DEFINITION. The statements for the provers, from the numbered rules of spec/. `receive` is the host issuing one
transaction (R71), `receiveSized` the same with its size in bytes, of which a descriptor's size code 3 says only that it is
none of 1, 2, 4 (R91, log entry 8); `exec` is the meaning of one decoded operation. A completion names the whole next
state, so it is a frame as well: what is not named is unchanged. -/

open Sys2Proof Sys2Proof.Machine

/-! ### Encoding and decoding -/

/-- R91, R97 to R99, R101: in a context in which the table selects it, the descriptor of a well-formed operation decodes
to that operation, with every operand. -/
def Obligations.EncodedOperationDecodesBack : Prop :=
  ∀ (i : Instr) (c : Position), i.wellFormed = true → i.selectedIn c = true → decode c (encode i) = .ok i

/-- R91, R100, R101: what a descriptor decodes to is well formed, is a row the table selects in that context, and has
that descriptor: no bit is dropped. -/
def Obligations.DecodedOperationEncodesBack : Prop :=
  ∀ (c : Position) (td : TD) (i : Instr), decode c td = .ok i →
    i.wellFormed = true ∧ i.selectedIn c = true ∧ encode i = td

/-- R101: "every deliverable transaction in every context selects exactly one row". -/
def Obligations.EveryTransactionSelectsExactlyOneRow : Prop :=
  ∀ (c : Position) (r : Region) (d : Dir) (z : SizeCode) (o : Offset) (v : BitVec 32),
    z.holds v = true → (d = .read → v = 0) → (r = .io → o.toNat ≤ 14) →
    ∃ i, decode c (pack r d z o v) = .ok i ∧
      ∀ j : Instr, (j.wellFormed = true ∧ j.selectedIn c = true ∧ encode j = pack r d z o v) ↔ j = i

/-- R97 to R99: words written out from the table. -/
def Obligations.TableWordsDecode : Prop :=
  decode ⟨.normal, .one⟩ 0x40000000AA00000098 = .ok .fwCfiq ∧
  decode ⟨.normal, .one⟩ 0x400000AAAA000000AA = .ok .fwUnlock1 ∧
  decode ⟨.normal, .four⟩ 0x400000AAAA000000AA = .ok .fwUnlock3 ∧
  decode ⟨.writing, .three⟩ 0x400000AAAA000000AA = .ok (.fwProgData 0xAAAA (.byte 0xAA)) ∧
  decode ⟨.autoselect, .three⟩ 0x400000AAAA000000AA = .ok (.fwIgnored 0xAAAA (.byte 0xAA)) ∧
  decode ⟨.writing, .three⟩ 0x6000040010CAFEF00D = .ok (.fwProgData 0x40010 (.word 0xCAFEF00D)) ∧
  decode ⟨.queryCFI, .one⟩ 0x100000001000000000 = .ok (.frCfi 0x10 .two) ∧
  decode ⟨.normal, .one⟩ 0xC0000000000000000F = .ok (.iowLedRsvd 0x0F) ∧
  decode ⟨.normal, .one⟩ 0x800000000100000000 = .ok .iorStatus

/-- R91, R54, log entry 7 (the model's choice): a word that is no packing of a deliverable transaction is rejected, and
the reason is named. -/
def Obligations.WordsOutsideThePackingAreRejected : Prop :=
  ∀ (c : Position) (td : TD),
    (td.zeros ≠ 0 → decode c td = .error .reservedBits) ∧
    (td.zeros = 0 → td.dir = .read → td.value ≠ 0 → decode c td = .error .readValue) ∧
    (td.zeros = 0 → td.dir = .write → td.region = .io → 14 < td.offset.toNat → decode c td = .error .ioOffset) ∧
    (td.zeros = 0 → td.dir = .read → td.value = 0 → td.region = .io → 14 < td.offset.toNat →
      decode c td = .error .ioOffset) ∧
    (td.zeros = 0 → td.dir = .write → (td.region = .io → td.offset.toNat ≤ 14) → td.szc.holds td.value = false →
      decode c td = .error .valueWidth)

/-! ### The machine as a whole -/

/-- R12, R70, R71, R100: a step delivers the host's oldest interaction; a transaction of `n` bytes whose descriptor has the
size code of `n` and decodes, and which R54 lets reach the block, is executed in the state it finds, from which it is taken
off the list. -/
def Obligations.StepRunsTheDecodedOperation : Prop :=
  ∀ (s : State) (td : TD) (n : Nat) (rest : List HostEvent) (i : Instr),
    s.fault = none → s.bus = .transaction td n :: rest → decode s.position td = .ok i → td.szc = SizeCode.ofBytes n →
    deliverable s.cfg td n = true → step s = exec i { s with bus := rest }

/-- R156, R219, log entry 5 (the model's choice): with nothing issued a step changes nothing. -/
def Obligations.StepWithNothingIssuedChangesNothing : Prop :=
  ∀ s : State, s.fault = none → s.bus = [] → step s = .next s

/-- R206: after a fault no further transaction has a meaning and nothing clears the record (first two clauses). That the
host's other interactions (the status injection, observing the pins, the overlay's accesses) have none either, the third
clause, is the model's choice: log entry 6 infers it from R219, by which the run ends at the first fault. -/
def Obligations.NoInteractionHasAMeaningAfterAFault : Prop :=
  ∀ (s : State) (k : FaultKind), s.fault = some k →
    step s = .fault (.runEnded k) ∧ (∀ i, exec i s = .fault (.runEnded k)) ∧
      ∀ a, hostAction a s = .fault (.runEnded k)

/-- R54: a flash transaction has its offset and its last byte inside the flash window, an I/O transaction an offset of 0
to 14, whatever the size; one that has not is refused and given no result. -/
def Obligations.UndeliverableTransactionsAreRefused : Prop :=
  ∀ s : State, s.fault = none →
    (∀ td n, td.region = .flash → (deliverable s.cfg td n = true ↔
      td.offset.toNat < s.cfg.flashWindowSize ∧ td.offset.toNat + n ≤ s.cfg.flashWindowSize)) ∧
    (∀ td n, td.region = .io → (deliverable s.cfg td n = true ↔ td.offset.toNat ≤ 14)) ∧
    (∀ o d, s.cfg.flashWindowSize < o.toNat + d.size.bytes → s.receive (fw o d) = .refused .notDeliverable) ∧
    (∀ o n, s.cfg.flashWindowSize < o.toNat + n.bytes → s.receive (fr n o) = .refused .notDeliverable) ∧
    (∀ n, n ≠ 1 → n ≠ 2 → n ≠ 4 → ∀ o,
      s.cfg.flashWindowSize ≤ o.toNat ∨ s.cfg.flashWindowSize < o.toNat + n →
      (∀ v, s.receiveSized (pack .flash .write .other o v) n = .refused .notDeliverable) ∧
      s.receiveSized (pack .flash .read .other o 0) n = .refused .notDeliverable) ∧
    (∀ n o v, 14 < o.toNat →
      s.receiveSized (pack .io .write (SizeCode.ofBytes n) o v) n = .refused .notDeliverable) ∧
    (∀ n o, 14 < o.toNat → s.receiveSized (pack .io .read (SizeCode.ofBytes n) o 0) n = .refused .notDeliverable)

/-- R24, R33, R191: every step keeps the position among the ten reachable ones, the flash store in canonical form and the
overlay's image no longer than 512 bytes. -/
def Obligations.StepKeepsTheInvariant : Prop :=
  ∀ s t : State, s.Inv → step s = .next t → t.Inv

/-- R230: the state after reset meets the invariant, whatever the configuration. -/
def Obligations.ResetMeetsTheInvariant : Prop :=
  (∀ cfg : Config, (State.resetOf cfg).Inv) ∧ State.reset.Inv

/-- R40, R190: no step writes the configuration or the overlay; a step takes the oldest interaction off the list. -/
def Obligations.NoStepWritesTheConfiguration : Prop :=
  ∀ s t : State, step s = .next t → t.cfg = s.cfg ∧ t.overlay = s.overlay ∧ t.bus = s.bus.tail

/-- R230: what `Reset(Cfg)` leaves, field by field. -/
def Obligations.ResetLeavesWhatItsConfigurationGives : Prop :=
  ∀ cfg : Config,
    (State.resetOf cfg).position = ⟨.normal, .one⟩ ∧
    (∀ a, (State.resetOf cfg).flashByte a = cfg.initByte a) ∧
    (State.resetOf cfg).bank = cfg.bankReset ∧ (State.resetOf cfg).led = cfg.ledReset ∧
    (State.resetOf cfg).mosi = false ∧ (State.resetOf cfg).cs = false ∧ (State.resetOf cfg).sck = false ∧
    (State.resetOf cfg).recovery = cfg.recoveryStrap ∧
    (State.resetOf cfg).miso1 = false ∧ (State.resetOf cfg).miso4 = false ∧
    (State.resetOf cfg).fault = none ∧ (State.resetOf cfg).cfg = cfg

/-- R12: the operations are total: in a running state every one of them completes, and none touches the configuration,
the overlay or what the host has still to issue. -/
def Obligations.EveryOperationCompletesInARunningState : Prop :=
  ∀ (i : Instr) (s : State), s.fault = none → ∃ t, exec i s = .next t ∧ s.sameSurroundings t

/-- R205, R11: a faulting transaction performs none of its writes, returns no value and records its kind. -/
def Obligations.FaultingTransactionChangesOnlyTheFaultRecord : Prop :=
  ∀ (i : Instr) (s t : State) (k : FaultKind), exec i s = .next t → t.fault = some k →
    t = { s with fault := some k, response := .nothing }

/-- R201: each fault kind is raised in exactly its cause; the kinds' codes. -/
def Obligations.FaultsAreRaisedInExactlyTheirCauses : Prop :=
  ([FaultKind.flashAccessSize, .ledReservedBits, .bankSpiReservedBit, .bankIndex, .flashSpan, .ioAccessSize].map
    FaultKind.code = [1, 2, 3, 4, 5, 6]) ∧
  ∀ (i : Instr) (s t : State), exec i s = .next t →
    (t.fault = some .flashAccessSize ↔ (∃ o v, i = .fwBadsize o v) ∨ ∃ o, i = .frBadsize o) ∧
    (t.fault = some .ledReservedBits ↔
      (∃ v, i = .iowLedRsvd v) ∨ ∃ v, i = .iowLed v ∧ v.extractLsb' 3 5 ≠ 0) ∧
    (t.fault = some .bankSpiReservedBit ↔
      (∃ v, i = .iowBankspiRsvd v) ∨ ∃ v, i = .iowBankspi v ∧ v.getLsbD 7 = true) ∧
    (t.fault = some .bankIndex ↔ 10 < s.bank.toNat ∧ ((∃ o n, i = .frArray o n) ∨ ∃ o d, i = .fwProgData o d)) ∧
    (t.fault = some .flashSpan ↔ ∃ b, s.selectedBank = some b ∧
      ((∃ o n, i = .frArray o n ∧ b.size < o.toNat % b.size + n.bytes) ∨
        ∃ o d, i = .fwProgData o d ∧ b.size < o.toNat % b.size + d.size.bytes)) ∧
    (t.fault = some .ioAccessSize ↔ ∃ dir z o v, i = .ioBadsize dir z o v)

/-- R207: of several causes the size comes first, the bank index before the span. -/
def Obligations.FaultCausesHaveTheirPriority : Prop :=
  ∀ s : State, s.fault = none →
    (∀ n, n ≠ 1 → n ≠ 2 → n ≠ 4 → ∀ o v, s.cfg.inFlashWindow o.toNat n = true →
      s.receiveSized (pack .flash .write .other o v) n =
        .next { s with fault := some .flashAccessSize, response := .nothing }) ∧
    (∀ n, n ≠ 1 → n ≠ 2 → n ≠ 4 → ∀ o, s.cfg.inFlashWindow o.toNat n = true →
      s.receiveSized (pack .flash .read .other o 0) n =
        .next { s with fault := some .flashAccessSize, response := .nothing }) ∧
    (10 < s.bank.toNat → s.mode = .normal → ∀ o n, s.cfg.inFlashWindow o.toNat n.bytes = true →
      s.receive (fr n o) = .next { s with fault := some .bankIndex, response := .nothing }) ∧
    (10 < s.bank.toNat → s.mode = .writing → ∀ o d, s.cfg.inFlashWindow o.toNat d.size.bytes = true →
      s.receive (fw o d) = .next { s with fault := some .bankIndex, response := .nothing }) ∧
    (∀ n o v, n ≠ 1 → (SizeCode.ofBytes n).holds v = true → o.toNat ≤ 14 →
      s.receiveSized (pack .io .write (SizeCode.ofBytes n) o v) n =
        .next { s with fault := some .ioAccessSize, response := .nothing })

/-- R22: the cycle is 1 at reset; a step changes it only by a matching sequence step in `Normal`, by exactly one, or by a
terminal action, to 1; and a terminal action that completes leaves it 1. -/
def Obligations.CycleAdvancesByOneOrReturnsToOne : Prop :=
  State.reset.cycle = .one ∧
  (∀ s t : State, step s = .next t → t.cycle ≠ s.cycle →
    ∃ td n rest i, s.bus = .transaction td n :: rest ∧ decode s.position td = .ok i ∧
      ((i.isStep ∧ s.mode = .normal ∧ t.mode = .normal ∧ t.cycle.toNat = s.cycle.toNat + 1) ∨
        (i.isTerminal ∧ t.cycle = .one))) ∧
  (∀ (i : Instr) (s t : State), exec i s = .next t → i.isTerminal → t.fault = none → t.cycle = .one) ∧
  (∀ (i : Instr) (s t : State), exec i s = .next t → i.isStep → i.selectedIn s.position = true →
    t.cycle.toNat = s.cycle.toNat + 1)

/-- R7, R34, R35: the configuration types admit exactly what the constraints admit: every legal bank descriptor and no
other, every flash window size from `0xAAAB` to `2^32` and no other, and a CFI table longer than `0x20` with the one entry
the source gives. -/
def Obligations.ConfigurationAdmitsExactlyTheConstraints : Prop :=
  (∀ off size : Nat,
    ((size = 0x100000 ∨ size = 0x80000 ∨ size = 0x40000) ∧ off + size ≤ 0x400000) ↔
      ∃ b : BankDescriptor, b.offset = off ∧ b.size = size) ∧
  (∀ w : Nat, (0xAAAB ≤ w ∧ w ≤ 2 ^ 32) ↔ ∃ cfg : Config, cfg.flashWindowSize = w) ∧
  (∀ t : CfiTable, 0x20 < t.length ∧ t.entry 0x20 = 0x51) ∧
  (∀ bytes : List Byte, bytes[0x20]? = some 0x51 →
    ∃ t : CfiTable, t.length = bytes.length ∧ ∀ i < bytes.length, some (t.entry i) = bytes[i]?)

/-! ### The operations against the spec's own listings -/

/-- R140: a flash write, decoded and executed, does what the listing of `FlashWrite` does, in the order of its tests;
and nothing else changes the position or FLASH. -/
def Obligations.FlashWritesFollowTheListing : Prop :=
  (∀ (s : State) (td : TD) (i : Instr) (n : Nat),
    s.fault = none → td.region = .flash → td.dir = .write → decode s.position td = .ok i →
    Listing.stands td.szc n →
    exec i s = .next (Listing.flashWrite td.offset.toNat td.value.toNat n s)) ∧
  (∀ (i : Instr) (s t : State), (i.reads = true ∨ i.ofIoWindow = true) → exec i s = .next t →
    t.mode = s.mode ∧ t.cycle = s.cycle ∧ t.flash = s.flash)

/-- R170: a flash read, decoded and executed, does what the listing of `FlashRead` does. -/
def Obligations.FlashReadsFollowTheListing : Prop :=
  ∀ (s : State) (td : TD) (i : Instr) (n : Nat),
    s.fault = none → td.region = .flash → td.dir = .read → decode s.position td = .ok i →
    Listing.stands td.szc n →
    exec i s = .next (Listing.flashRead td.offset.toNat n s)

/-- R120: an I/O transaction, decoded and executed, does what the listings of `IoWrite` and `IoRead` do, and means the
same in every flash mode. -/
def Obligations.RegisterBlockFollowsTheListing : Prop :=
  (∀ (s : State) (td : TD) (i : Instr) (n : Nat),
    s.fault = none → td.region = .io → decode s.position td = .ok i → Listing.stands td.szc n →
    (td.dir = .write → exec i s = .next (Listing.ioWrite td.offset.toNat td.value.toNat n s)) ∧
    (td.dir = .read → exec i s = .next (Listing.ioRead td.offset.toNat n s))) ∧
  (∀ (c c' : Position) (td : TD), td.region = .io → decode c td = decode c' td)

/-! ### Flash commands -/

/-- R142: the universal reset, in every mode but `Writing`, where the same word is stored as a datum and the position is
`(Normal, 1)` too; only at offset 0 and only of one byte; in the hold modes no other write has an effect. -/
def Obligations.UniversalResetReturnsToNormalCycleOne : Prop :=
  ∀ s : State, s.fault = none →
    exec .fwReset s = .next { s with mode := .normal, cycle := .one, response := .nothing } ∧
    (s.mode ≠ .writing →
      s.receive 0x4000000000000000F0 = .next { s with mode := .normal, cycle := .one, response := .nothing }) ∧
    (s.mode = .writing → ∀ b, s.selectedBank = some b →
      ∃ t, s.receive 0x4000000000000000F0 = .next t ∧ t.position = ⟨.normal, .one⟩ ∧
        t.flashByte (translate 0 b) = 0xF0 ∧ ∀ a, a ≠ translate 0 b → t.flashByte a = s.flashByte a) ∧
    (s.mode ≠ .writing → ∀ o, o ≠ 0x00 → s.cfg.inFlashWindow o.toNat 1 = true →
      s.receive (fw1 o 0xF0) = .next { s with response := .nothing }) ∧
    (s.mode ≠ .writing → s.receive (fw2 0x00 0x00F0) = .next { s with response := .nothing }) ∧
    (s.mode ≠ .writing → s.mode ≠ .normal → ∀ o d, ¬(o = 0x00 ∧ d = .byte 0xF0) →
      s.cfg.inFlashWindow o.toNat d.size.bytes = true → s.receive (fw o d) = .next { s with response := .nothing })

/-- R143: the three hold modes ignore every flash write but the reset. -/
def Obligations.HoldModesIgnoreEveryWriteButTheReset : Prop :=
  ∀ (s : State), s.fault = none → (s.mode = .queryCFI ∨ s.mode = .autoselect ∨ s.mode = .sectorErase) →
    (∀ o d, (o ≠ 0x00 ∨ d ≠ .byte 0xF0) → s.cfg.inFlashWindow o.toNat d.size.bytes = true →
      s.receive (fw o d) = .next { s with response := .nothing }) ∧
    s.receiveAll (unlock ++ cfiEnter ++ autoselect) = .next { s with response := .nothing }

/-- R144: the CFI query, at `(Normal, 1)` only; from then on reads are CFI reads, and only the reset leaves the mode. -/
def Obligations.CfiQueryEntersQueryCfi : Prop :=
  ∀ s : State, s.fault = none →
    exec .fwCfiq s = .next { s with mode := .queryCFI, response := .nothing } ∧
    (s.position = ⟨.normal, .one⟩ →
      s.receive 0x40000000AA00000098 = .next { s with mode := .queryCFI, cycle := .one, response := .nothing }) ∧
    (s.mode = .normal → s.cycle ≠ .one → s.receive 0x40000000AA00000098 = .next { s with response := .nothing }) ∧
    (∀ c n o, decode ⟨.queryCFI, c⟩ (fr n o) = .ok (.frCfi o n)) ∧
    (∀ c o d, (decode ⟨.queryCFI, c⟩ (fw o d) = .ok .fwReset ↔ o = 0x00 ∧ d = .byte 0xF0) ∧
      (¬(o = 0x00 ∧ d = .byte 0xF0) → decode ⟨.queryCFI, c⟩ (fw o d) = .ok (.fwIgnored o d))) ∧
    (∀ (i : Instr) (t : State), s.mode = .queryCFI → (i.reads = true ∨ i.ofIoWindow = true ∨ ∃ o d, i = .fwIgnored o d) →
      exec i s = .next t → t.mode = .queryCFI)

/-- R145, R150: the word `fw1 0xAAAA, 0xAA` is the first unlock step at cycle 1, the third at cycle 4 and ignored at the
other cycles; at cycle 4 any other write but the reset leaves the position. -/
def Obligations.FirstAndThirdUnlockStepsAdvance : Prop :=
  ∀ s : State, s.fault = none →
    exec .fwUnlock1 s = .next { s with cycle := .two, response := .nothing } ∧
    exec .fwUnlock3 s = .next { s with cycle := .five, response := .nothing } ∧
    (s.position = ⟨.normal, .one⟩ →
      s.receive 0x400000AAAA000000AA = .next { s with cycle := .two, response := .nothing }) ∧
    (s.position = ⟨.normal, .four⟩ →
      s.receive 0x400000AAAA000000AA = .next { s with cycle := .five, response := .nothing }) ∧
    (s.mode = .normal → s.cycle ≠ .one → s.cycle ≠ .four →
      s.receive 0x400000AAAA000000AA = .next { s with response := .nothing }) ∧
    (s.position = ⟨.normal, .four⟩ → ∀ o d, d ≠ .byte 0xAA ∨ o ≠ 0xAAAA → d ≠ .byte 0xF0 ∨ o ≠ 0x00 →
      s.cfg.inFlashWindow o.toNat d.size.bytes = true → s.receive (fw o d) = .next { s with response := .nothing })

/-- R146, R151: the word `fw1 0x5555, 0x55` is the second unlock step at cycle 2, the fourth at cycle 5 and ignored at
the other cycles; at cycles 2 and 5 any other write but the reset leaves the position. -/
def Obligations.SecondAndFourthUnlockStepsAdvance : Prop :=
  ∀ s : State, s.fault = none →
    exec .fwUnlock2 s = .next { s with cycle := .three, response := .nothing } ∧
    exec .fwUnlock4 s = .next { s with cycle := .six, response := .nothing } ∧
    (s.position = ⟨.normal, .two⟩ →
      s.receive 0x400000555500000055 = .next { s with cycle := .three, response := .nothing }) ∧
    (s.position = ⟨.normal, .five⟩ →
      s.receive 0x400000555500000055 = .next { s with cycle := .six, response := .nothing }) ∧
    (s.mode = .normal → s.cycle ≠ .two → s.cycle ≠ .five →
      s.receive 0x400000555500000055 = .next { s with response := .nothing }) ∧
    (s.position = ⟨.normal, .two⟩ ∨ s.position = ⟨.normal, .five⟩ →
      ∀ o d, d ≠ .byte 0x55 ∨ o ≠ 0x5555 → d ≠ .byte 0xF0 ∨ o ≠ 0x00 →
      s.cfg.inFlashWindow o.toNat d.size.bytes = true → s.receive (fw o d) = .next { s with response := .nothing })

/-- R147: the erase set-up step, at `(Normal, 3)` only; the mode stays `Normal`, so array reads go on. -/
def Obligations.EraseSetupAdvancesToCycleFour : Prop :=
  ∀ s : State, s.fault = none →
    exec .fwEraseSetup s = .next { s with cycle := .four, response := .nothing } ∧
    (s.position = ⟨.normal, .three⟩ →
      s.receive 0x400000AAAA00000080 = .next { s with cycle := .four, response := .nothing }) ∧
    (s.mode = .normal → s.cycle ≠ .three → s.receive 0x400000AAAA00000080 = .next { s with response := .nothing }) ∧
    (∀ c n o, decode ⟨.normal, c⟩ (fr n o) = .ok (.frArray o n))

/-- R148: entry to `Autoselect`, at `(Normal, 3)` only, the cycle kept; reads are then identification reads and only the
reset leaves the mode. -/
def Obligations.AutoselectCommandEntersAutoselect : Prop :=
  ∀ s : State, s.fault = none →
    exec .fwAutosel s = .next { s with mode := .autoselect, response := .nothing } ∧
    (s.position = ⟨.normal, .three⟩ →
      s.receive 0x400000AAAA00000090 = .next { s with mode := .autoselect, cycle := .three, response := .nothing }) ∧
    (s.mode = .normal → s.cycle ≠ .three → s.receive 0x400000AAAA00000090 = .next { s with response := .nothing }) ∧
    (∀ c n o, decode ⟨.autoselect, c⟩ (fr n o) = .ok (.frId o n)) ∧
    (∀ c o d, (decode ⟨.autoselect, c⟩ (fw o d) = .ok .fwReset ↔ o = 0x00 ∧ d = .byte 0xF0) ∧
      (¬(o = 0x00 ∧ d = .byte 0xF0) → decode ⟨.autoselect, c⟩ (fw o d) = .ok (.fwIgnored o d))) ∧
    (∀ (i : Instr) (t : State), s.mode = .autoselect → (i.reads = true ∨ i.ofIoWindow = true ∨ ∃ o d, i = .fwIgnored o d) →
      exec i s = .next t → t.mode = .autoselect)

/-- R149: arming a program, at `(Normal, 3)` and offset `0xAAAA` only, the cycle kept; the next flash write of a legal
size is the datum, and no read or I/O access leaves the mode. -/
def Obligations.ProgramSetupEntersWriting : Prop :=
  ∀ s : State, s.fault = none →
    exec .fwProgSetup s = .next { s with mode := .writing, response := .nothing } ∧
    (s.position = ⟨.normal, .three⟩ →
      s.receive 0x400000AAAA000000A0 = .next { s with mode := .writing, cycle := .three, response := .nothing }) ∧
    (s.position = ⟨.normal, .three⟩ → ∀ o, o ≠ 0xAAAA → s.cfg.inFlashWindow o.toNat 1 = true →
      s.receive (fw1 o 0xA0) = .next { s with response := .nothing }) ∧
    (s.mode = .normal → s.cycle ≠ .three → s.receive 0x400000AAAA000000A0 = .next { s with response := .nothing }) ∧
    (∀ c o d, decode ⟨.writing, c⟩ (fw o d) = .ok (.fwProgData o d)) ∧
    (∀ c n o, decode ⟨.writing, c⟩ (fr n o) = .ok (.frBusy o n)) ∧
    (∀ (i : Instr) (t : State), s.mode = .writing → (i.reads = true ∨ i.ofIoWindow = true) → exec i s = .next t →
      t.mode = .writing)

/-- R152: at `(Normal, 6)` a one-byte write of `0x30` to any offset is accepted as a sector erase: FLASH is unchanged and
reads are busy reads; any other write but the reset leaves `(Normal, 6)`. -/
def Obligations.SectorEraseIsAcceptedAndErasesNothing : Prop :=
  ∀ s : State, s.fault = none →
    (∀ o, exec (.fwSectorErase o) s = .next { s with mode := .sectorErase, cycle := .one, response := .nothing }) ∧
    (s.position = ⟨.normal, .six⟩ → ∀ o, s.cfg.inFlashWindow o.toNat 1 = true →
      s.receive (fw1 o 0x30) = .next { s with mode := .sectorErase, cycle := .one, response := .nothing }) ∧
    (s.position = ⟨.normal, .six⟩ → ∀ o d, d ≠ .byte 0x30 → d ≠ .byte 0xF0 ∨ o ≠ 0x00 →
      s.cfg.inFlashWindow o.toNat d.size.bytes = true → s.receive (fw o d) = .next { s with response := .nothing }) ∧
    (∀ c n o, decode ⟨.sectorErase, c⟩ (fr n o) = .ok (.frBusy o n))

/-- R153: the program datum. With no usable bank, or past the end of the window, it faults and stores nothing; else it is
stored little-endian at the translated offset, every other byte and register is unchanged and the position is
`(Normal, 1)`. In `Writing` every flash write of a legal size is a datum, whatever it spells; the mirrors of an offset are
one place. -/
def Obligations.ProgramDatumIsStored : Prop :=
  ∀ (s : State) (o : Offset) (d : Datum), s.fault = none →
    (s.mode = .writing → s.cfg.inFlashWindow o.toNat d.size.bytes = true →
      s.receive (fw o d) = exec (.fwProgData o d) s) ∧
    (10 < s.bank.toNat →
      exec (.fwProgData o d) s = .next { s with fault := some .bankIndex, response := .nothing }) ∧
    (∀ b, s.selectedBank = some b → b.size < o.toNat % b.size + d.size.bytes →
      exec (.fwProgData o d) s = .next { s with fault := some .flashSpan, response := .nothing }) ∧
    (∀ b, s.selectedBank = some b → o.toNat % b.size + d.size.bytes ≤ b.size →
      ∃ t, exec (.fwProgData o d) s = .next t ∧ t.position = ⟨.normal, .one⟩ ∧ t.fault = none ∧
        t.response = .nothing ∧
        (∀ k < d.size.bytes, t.flashByte (translate o.toNat b + k) = BitVec.ofNat 8 (d.toNat / 2 ^ (8 * k))) ∧
        (∀ a, a < translate o.toNat b ∨ translate o.toNat b + d.size.bytes ≤ a → t.flashByte a = s.flashByte a) ∧
        s.sameRegisters t ∧ s.sameSurroundings t) ∧
    (∀ b (o' : Offset), s.selectedBank = some b → o'.toNat % b.size = o.toNat % b.size →
      exec (.fwProgData o' d) s = exec (.fwProgData o d) s)

/-- R154, R141: a write that matches no command changes nothing; outside `Writing` that is every 2- and 4-byte write, in
`Normal` every one-byte write that is neither the reset nor a row of the cycle, and in the hold modes every write but the
reset. -/
def Obligations.UnmatchedWritesAreIgnored : Prop :=
  ∀ s : State, s.fault = none →
    (∀ o d, exec (.fwIgnored o d) s = .next { s with response := .nothing }) ∧
    (s.mode ≠ .writing → ∀ o d, d.size ≠ .one → s.cfg.inFlashWindow o.toNat d.size.bytes = true →
      s.receive (fw o d) = .next { s with response := .nothing }) ∧
    (s.mode = .normal → ∀ o v, ¬(o = 0x00 ∧ v = 0xF0) →
      (∀ r ∈ commandRows, r.cycle = s.cycle → r.value = v → r.offset ≠ some o ∧ r.offset ≠ none) →
      s.cfg.inFlashWindow o.toNat 1 = true → s.receive (fw1 o v) = .next { s with response := .nothing }) ∧
    (s.mode ≠ .writing → s.mode ≠ .normal → ∀ o d, ¬(o = 0x00 ∧ d = .byte 0xF0) →
      s.cfg.inFlashWindow o.toNat d.size.bytes = true → s.receive (fw o d) = .next { s with response := .nothing })

/-- R155, R179: a flash access of a size other than 1, 2, 4 faults in every mode, before anything else is tested; the two
rows, the words they have, and a transaction of every such size that lies inside the window. -/
def Obligations.UnsupportedFlashSizesFault : Prop :=
  ∀ s : State, s.fault = none →
    (∀ o v, exec (.fwBadsize o v) s = .next { s with fault := some .flashAccessSize, response := .nothing }) ∧
    (∀ o, exec (.frBadsize o) s = .next { s with fault := some .flashAccessSize, response := .nothing }) ∧
    (∀ c o v, decode c (pack .flash .write .other o v) = .ok (.fwBadsize o v)) ∧
    (∀ c o, decode c (pack .flash .read .other o 0) = .ok (.frBadsize o)) ∧
    (∀ n, n ≠ 1 → n ≠ 2 → n ≠ 4 → ∀ o, s.cfg.inFlashWindow o.toNat n = true →
      (∀ v, s.receiveSized (pack .flash .write .other o v) n =
        .next { s with fault := some .flashAccessSize, response := .nothing }) ∧
      s.receiveSized (pack .flash .read .other o 0) n =
        .next { s with fault := some .flashAccessSize, response := .nothing })

/-! ### Flash reads -/

/-- R172: the array read: the bytes from the translated offset, the lowest one least significant, `8n` bits; the two
faults in their order; the same for every mirror of the offset; an array read in `Normal` at any cycle; FLASH after reset
is `FLASH_INIT`. -/
def Obligations.ArrayReadReturnsTheStoredBytes : Prop :=
  ∀ (s : State) (o : Offset), s.fault = none →
    (∀ n, s.mode = .normal → s.cfg.inFlashWindow o.toNat n.bytes = true →
      s.receive (fr n o) = exec (.frArray o n) s) ∧
    (∀ n, 10 < s.bank.toNat →
      exec (.frArray o n) s = .next { s with fault := some .bankIndex, response := .nothing }) ∧
    (∀ b, s.selectedBank = some b →
      (∀ n, b.size < o.toNat % b.size + n.bytes →
        exec (.frArray o n) s = .next { s with fault := some .flashSpan, response := .nothing }) ∧
      (exec (.frArray o .one) s = .next { s with response := .value (.byte (s.flashByte (translate o.toNat b))) }) ∧
      (o.toNat % b.size + 2 ≤ b.size →
        exec (.frArray o .two) s =
          .next { s with
            response := .value (.half (s.flashByte (translate o.toNat b + 1) ++ s.flashByte (translate o.toNat b))) }) ∧
      (o.toNat % b.size + 4 ≤ b.size →
        exec (.frArray o .four) s =
          .next { s with
            response := .value (.word (s.flashByte (translate o.toNat b + 3) ++ s.flashByte (translate o.toNat b + 2) ++
              s.flashByte (translate o.toNat b + 1) ++ s.flashByte (translate o.toNat b))) }) ∧
      (∀ (o' : Offset) n, o'.toNat % b.size = o.toNat % b.size → exec (.frArray o' n) s = exec (.frArray o n) s)) ∧
    (∀ a, (State.resetOf s.cfg).flashByte a = s.cfg.initByte a)

/-- R174: the CFI read: one table entry at `o`, or at `2o` for the wider sizes, modulo the table's length, zero-extended;
entry `0x20` is `0x51`; a wide read returns the byte a one-byte read returns at the doubled offset. -/
def Obligations.CfiReadReturnsOneTableEntry : Prop :=
  ∀ (s : State) (o : Offset), s.fault = none →
    (∀ n, s.mode = .queryCFI → s.cfg.inFlashWindow o.toNat n.bytes = true →
      s.receive (fr n o) = exec (.frCfi o n) s) ∧
    (exec (.frCfi o .one) s =
      .next { s with response := .value (.byte (s.cfg.cfiTable.entry (o.toNat % s.cfg.cfiTable.length))) }) ∧
    (exec (.frCfi o .two) s =
      .next { s with
        response := .value (.half ((s.cfg.cfiTable.entry (2 * o.toNat % s.cfg.cfiTable.length)).setWidth 16)) }) ∧
    (exec (.frCfi o .four) s =
      .next { s with
        response := .value (.word ((s.cfg.cfiTable.entry (2 * o.toNat % s.cfg.cfiTable.length)).setWidth 32)) }) ∧
    (0x20 < s.cfg.cfiTable.length ∧ s.cfg.cfiTable.entry 0x20 = 0x51) ∧
    (∀ (o' : Offset), o'.toNat = 2 * o.toNat → ∀ e, exec (.frCfi o' .one) s = .next { s with response := .value (.byte e) } →
      exec (.frCfi o .two) s = .next { s with response := .value (.half (e.setWidth 16)) } ∧
      exec (.frCfi o .four) s = .next { s with response := .value (.word (e.setWidth 32)) })

/-- R176: the identification read: `0x01` at offset 0, `0xC4` at offset 2, 0 at every other offset, zero-extended. -/
def Obligations.AutoselectReadReturnsTheIdentificationBytes : Prop :=
  ∀ (s : State) (o : Offset) (b : Byte), s.fault = none →
    (b = if o = 0 then 0x01 else if o = 2 then 0xC4 else 0x00) →
    (∀ n, s.mode = .autoselect → s.cfg.inFlashWindow o.toNat n.bytes = true →
      s.receive (fr n o) = exec (.frId o n) s) ∧
    exec (.frId o .one) s = .next { s with response := .value (.byte b) } ∧
    exec (.frId o .two) s = .next { s with response := .value (.half (b.setWidth 16)) } ∧
    exec (.frId o .four) s = .next { s with response := .value (.word (b.setWidth 32)) }

/-- R178: a read in `Writing` or `SectorErase` returns 0 of `8n` bits, changes nothing and does not fault, whatever the
bank. -/
def Obligations.BusyReadReturnsZero : Prop :=
  ∀ (s : State) (o : Offset), s.fault = none →
    (∀ n, (s.mode = .writing ∨ s.mode = .sectorErase) → s.cfg.inFlashWindow o.toNat n.bytes = true →
      s.receive (fr n o) = exec (.frBusy o n) s) ∧
    exec (.frBusy o .one) s = .next { s with response := .value (.byte 0) } ∧
    exec (.frBusy o .two) s = .next { s with response := .value (.half 0) } ∧
    exec (.frBusy o .four) s = .next { s with response := .value (.word 0) }

/-- R171, R68: no read changes any state of the block, the fault record apart. -/
def Obligations.ReadsChangeNoState : Prop :=
  ∀ (i : Instr) (s t : State), i.reads = true → exec i s = .next t →
    t = { s with fault := t.fault, response := t.response }

/-! ### The register block -/

/-- R121: the LED write sets the three LED bits and nothing else; a reserved bit set is a fault. -/
def Obligations.LedWriteSetsTheLedBits : Prop :=
  ∀ (s : State) (v : Byte), s.fault = none →
    (v.toNat < 8 → exec (.iowLed v) s = .next { s with led := v.extractLsb' 0 3, response := .nothing }) ∧
    (8 ≤ v.toNat → exec (.iowLed v) s = .next { s with fault := some .ledReservedBits, response := .nothing }) ∧
    exec (.iowLedRsvd v) s = .next { s with fault := some .ledReservedBits, response := .nothing } ∧
    (v.toNat < 8 → s.receive (iow 0 v) = .next { s with led := v.extractLsb' 0 3, response := .nothing }) ∧
    (8 ≤ v.toNat → s.receive (iow 0 v) = .next { s with fault := some .ledReservedBits, response := .nothing })

/-- R122: the bank-select write sets all four fields and nothing else, for every bank index 0 to 15; bit 7 set is a
fault. -/
def Obligations.BankSpiWriteSetsFourFields : Prop :=
  ∀ (s : State) (v : Byte), s.fault = none →
    (v.toNat < 0x80 →
      exec (.iowBankspi v) s =
        .next { s with
          bank := v.extractLsb' 0 4, mosi := v.getLsbD 4, cs := v.getLsbD 5, sck := v.getLsbD 6,
          response := .nothing }) ∧
    (0x80 ≤ v.toNat →
      exec (.iowBankspi v) s = .next { s with fault := some .bankSpiReservedBit, response := .nothing }) ∧
    exec (.iowBankspiRsvd v) s = .next { s with fault := some .bankSpiReservedBit, response := .nothing } ∧
    (v.toNat < 0x80 →
      s.receive (iow 1 v) =
        .next { s with
          bank := v.extractLsb' 0 4, mosi := v.getLsbD 4, cs := v.getLsbD 5, sck := v.getLsbD 6,
          response := .nothing }) ∧
    (0x80 ≤ v.toNat →
      s.receive (iow 1 v) = .next { s with fault := some .bankSpiReservedBit, response := .nothing })

/-- R123, R126: at the undefined I/O offsets 2 to 14 a write is ignored, whatever its value, and a read returns 0. -/
def Obligations.UndefinedIoOffsetsAreNoOps : Prop :=
  ∀ (s : State) (o : Offset) (v : Byte), s.fault = none →
    exec (.iowUndef o v) s = .next { s with response := .nothing } ∧
    exec (.iorUndef o) s = .next { s with response := .value (.byte 0) } ∧
    (2 ≤ o.toNat → o.toNat ≤ 14 →
      s.receive (iow o v) = .next { s with response := .nothing } ∧
      s.receive (ior o) = .next { s with response := .value (.byte 0) })

/-- R124: I/O offset 0 reads `0x55` in every state, whatever was written there. -/
def Obligations.IdReadReturnsTheSentinel : Prop :=
  ∀ s : State, s.fault = none →
    exec .iorId s = .next { s with response := .value (.byte 0x55) } ∧
    s.receive 0x800000000000000000 = .next { s with response := .value (.byte 0x55) }

/-- R125: the status read composes recovery (bit 7), 0 (bit 6), miso1 (bit 5), miso4 (bit 4) and the bank (bits 3:0). -/
def Obligations.StatusReadComposesTheStatusByte : Prop :=
  ∀ s : State, s.fault = none → ∃ b : Byte,
    exec .iorStatus s = .next { s with response := .value (.byte b) } ∧
    s.receive 0x800000000100000000 = .next { s with response := .value (.byte b) } ∧
    b.getLsbD 7 = s.recovery ∧ b.getLsbD 6 = false ∧ b.getLsbD 5 = s.miso1 ∧ b.getLsbD 4 = s.miso4 ∧
    b.extractLsb' 0 4 = s.bank ∧
    b.toNat = s.recovery.toNat * 128 + s.miso1.toNat * 32 + s.miso4.toNat * 16 + s.bank.toNat

/-- R127: an I/O access of a size other than 1 faults, in both directions and at every offset. -/
def Obligations.WideIoAccessesFault : Prop :=
  ∀ (s : State) (dir : Dir) (o : Offset) (v : BitVec 32), s.fault = none →
    (∀ z, exec (.ioBadsize dir z o v) s = .next { s with fault := some .ioAccessSize, response := .nothing }) ∧
    (∀ n, n ≠ 1 → (SizeCode.ofBytes n).holds v = true → (dir = .read → v = 0) → o.toNat ≤ 14 →
      s.receiveSized (pack .io dir (SizeCode.ofBytes n) o v) n =
        .next { s with fault := some .ioAccessSize, response := .nothing })

/-- R128: the two halves of the core: offset 0 is not a latch, the bank reads back as last written, no I/O operation
changes the position or FLASH, no flash operation changes a register. -/
def Obligations.RegistersAndSequencerAreIndependent : Prop :=
  (∀ (i : Instr) (s t : State), i.ofIoWindow = true → exec i s = .next t → s.position = t.position ∧ s.sameFlash t) ∧
  (∀ (i : Instr) (s t : State), i.ofIoWindow = false → exec i s = .next t → s.sameRegisters t) ∧
  (∀ (i : Instr) (s t : State), exec i s = .next t → t.bank ≠ s.bank →
    ∃ v, i = .iowBankspi v ∧ t.bank = v.extractLsb' 0 4) ∧
  (∀ (i : Instr) (s t : State), exec i s = .next t → t.led ≠ s.led → ∃ v, i = .iowLed v) ∧
  (∀ (i : Instr) (s t : State), exec i s = .next t →
    t.recovery = s.recovery ∧ t.miso1 = s.miso1 ∧ t.miso4 = s.miso4)

/-- R249: writing back to offset 1 the byte just read there faults when `S.recovery = 1`; when it is 0 the write keeps
the bank and puts the input pins' levels on two of the output pins. -/
def Obligations.WritingBackTheStatusByteFaultsUnderRecovery : Prop :=
  ∀ (s t : State) (b : Byte), exec .iorStatus s = .next t → t.response = .value (.byte b) →
    (s.recovery = true →
      t.receive (iow 1 b) = .next { s with fault := some .bankSpiReservedBit, response := .nothing }) ∧
    (s.recovery = false →
      t.receive (iow 1 b) =
        .next { s with mosi := s.miso4, cs := s.miso1, sck := false, response := .nothing })

/-! ### Translation and memory -/

/-- R61: translation stays inside the bank's slice, is periodic with the bank's size, and is injective on the window when
the offset is a multiple of the size. -/
def Obligations.TranslationStaysInTheBankAndRepeats : Prop :=
  ∀ (b : BankDescriptor) (l : Nat),
    (b.offset ≤ translate l b ∧ translate l b < b.offset + b.size ∧ translate l b < 0x400000) ∧
    translate (l + b.size) b = translate l b ∧
    (b.offset % b.size = 0 → translate l b = b.offset + l % b.size ∧
      ∀ l', l < b.size → l' < b.size → translate l b = translate l' b → l = l')

/-- R64: a naturally aligned access, an array read or a program datum, never raises `FlashSpan`, whatever the bank; with a
usable bank it does not fault at all, and a misaligned one raises `FlashSpan` exactly when it passes the end of the window.
No other operation raises `FlashSpan`. -/
def Obligations.AlignedAccessesNeverSpan : Prop :=
  ∀ s t : State,
    (∀ (o : Offset) (n : Size), exec (.frArray o n) s = .next t →
      (o.toNat % n.bytes = 0 → t.fault ≠ some .flashSpan) ∧
      ∀ b, s.selectedBank = some b → (o.toNat % n.bytes = 0 → t.fault = none) ∧
        (t.fault = some .flashSpan ↔ b.size < o.toNat % b.size + n.bytes)) ∧
    (∀ (o : Offset) (d : Datum), exec (.fwProgData o d) s = .next t →
      (o.toNat % d.size.bytes = 0 → t.fault ≠ some .flashSpan) ∧
      ∀ b, s.selectedBank = some b → (o.toNat % d.size.bytes = 0 → t.fault = none) ∧
        (t.fault = some .flashSpan ↔ b.size < o.toNat % b.size + d.size.bytes)) ∧
    (∀ i : Instr, (∀ o n, i ≠ .frArray o n) → (∀ o d, i ≠ .fwProgData o d) → exec i s = .next t →
      t.fault ≠ some .flashSpan)

/-- R56: `MemRead` is the `8n`-bit value of the `n` bytes from `p`, the lowest offset least significant. R57: `MemWrite`
sets the `n` bytes from `p` little-endian and no other, whatever they held; `MemRead` then returns them, and narrower reads
see their part (R58). -/
def Obligations.MemReadReturnsWhatMemWriteStored : Prop :=
  (∀ (s : State) (p n : Nat), s.memRead p n < 2 ^ (8 * n) ∧
    ∀ k < n, s.memRead p n / 2 ^ (8 * k) % 0x100 = (s.flashByte (p + k)).toNat) ∧
  ∀ (s : State) (p n v : Nat), v < 2 ^ (8 * n) →
    (s.memWrite p n v).memRead p n = v ∧
    (∀ k < n, (s.memWrite p n v).flashByte (p + k) = BitVec.ofNat 8 (v / 2 ^ (8 * k))) ∧
    (∀ a, a < p ∨ p + n ≤ a → (s.memWrite p n v).flashByte a = s.flashByte a) ∧
    (∀ j m, j + m ≤ n → (s.memWrite p n v).memRead (p + j) m = v / 2 ^ (8 * j) % 2 ^ (8 * m))

/-- R33, R66: a byte of FLASH changes in a step only where a program datum is committed in `Writing`. -/
def Obligations.OnlyAProgramCommitChangesFlash : Prop :=
  ∀ (s t : State) (a : Nat), step s = .next t → t.flashByte a ≠ s.flashByte a →
    s.mode = .writing ∧ ∃ td n rest o d b, s.bus = .transaction td n :: rest ∧
      decode s.position td = .ok (.fwProgData o d) ∧ s.selectedBank = some b ∧
      translate o.toNat b ≤ a ∧ a < translate o.toNat b + d.size.bytes

/-- R33, R156: every operation but FW.PROG_DATA leaves every byte of FLASH, and the surroundings. -/
def Obligations.OperationsThatStoreNothingLeaveEveryByte : Prop :=
  ∀ (i : Instr) (s t : State), (∀ o d, i ≠ .fwProgData o d) → exec i s = .next t →
    (∀ a, t.flashByte a = s.flashByte a) ∧ s.sameSurroundings t

/-- R65, R246: the bank is not latched: a bank switch between the program set-up and the datum redirects the datum, and
leaves the program armed. -/
def Obligations.BankIsSampledWhenTheDatumArrives : Prop :=
  ∀ (s : State) (v : Byte) (o : Offset) (d : Datum) (b : BankDescriptor),
    s.fault = none → s.mode = .writing → v.toNat < 0x80 → s.cfg.bankTable[v.toNat % 16]? = some b →
    o.toNat % b.size + d.size.bytes ≤ b.size → s.cfg.inFlashWindow o.toNat d.size.bytes = true →
    ∃ t, s.receiveAll [iow 1 v, fw o d] = .next t ∧ t.position = ⟨.normal, .one⟩ ∧
      (∀ k < d.size.bytes, t.flashByte (translate o.toNat b + k) = BitVec.ofNat 8 (d.toNat / 2 ^ (8 * k))) ∧
      (∀ a, a < translate o.toNat b ∨ translate o.toNat b + d.size.bytes ≤ a → t.flashByte a = s.flashByte a)

/-! ### Sequences of transactions -/

/-- R157 (a), R240: from `(Normal, 1)` the six writes of the erase sequence end in `SectorErase` and FLASH is unchanged;
after the reset the state is the one before the sequence. -/
def Obligations.EraseSequenceEndsInSectorErase : Prop :=
  ∀ (s : State) (o : Offset), s.fault = none → s.position = ⟨.normal, .one⟩ →
    s.cfg.inFlashWindow o.toNat 1 = true →
    s.receiveAll (sectorErase o) = .next { s with mode := .sectorErase, cycle := .one, response := .nothing } ∧
    s.receiveAll (sectorErase o ++ [resetCommand]) = .next { s with response := .nothing }

/-- R157 (c): programming a datum of any size at any offset of the window, whatever it spells, and reading it back
returns it. -/
def Obligations.ProgramRoundTrip : Prop :=
  ∀ (s : State) (o : Offset) (d : Datum) (b : BankDescriptor), s.fault = none → s.position = ⟨.normal, .one⟩ →
    s.selectedBank = some b → o.toNat % b.size + d.size.bytes ≤ b.size →
    s.cfg.inFlashWindow o.toNat d.size.bytes = true →
    ∃ t, s.receiveAll (program o d) = .next t ∧ t.position = ⟨.normal, .one⟩ ∧
      t.receive (fr d.size o) = .next { t with response := .value d }

/-- R157 (b), R243: the reset write reaches `(Normal, 1)` from every position, given a usable bank; in `Writing` the
first of two is stored as the datum `0xF0` and the second stores nothing. -/
def Obligations.ResetWritesReachNormalCycleOne : Prop :=
  ∀ (s : State) (b : BankDescriptor), s.fault = none → s.selectedBank = some b →
    ∃ t, s.receive resetCommand = .next t ∧ t.position = ⟨.normal, .one⟩ ∧
      t.receive resetCommand = .next { t with response := .nothing } ∧
      (s.mode = .writing → t.flashByte (translate 0 b) = 0xF0) ∧
      (s.mode ≠ .writing → s.sameFlash t)

/-! ### The host's other interactions -/

/-- R218, R41: `InjectStatus` sets the three status inputs and nothing else; observing the pins hands back the four
outputs and changes nothing. -/
def Obligations.HostDrivesAndObservesThePins : Prop :=
  ∀ (s : State) (rest : List HostEvent), s.fault = none →
    (∀ r m1 m4, s.bus = .action (.injectStatus r m1 m4) :: rest →
      step s = .next { s with recovery := r, miso1 := m1, miso4 := m4, bus := rest, response := .nothing }) ∧
    (s.bus = .action .observePins :: rest →
      step s =
        .next { s with
          bus := rest, response := .pins { led := s.led, sck := s.sck, cs := s.cs, mosi := s.mosi } })

/-- R191 to R194: the overlay reads its image right-aligned in the window with zeros in front, little-endian, and zeros
everywhere when there is no image; a write to it changes nothing. -/
def Obligations.OverlayReadsItsImageAndIgnoresWrites : Prop :=
  ∀ (s : State) (rest : List HostEvent) (o : Nat), s.fault = none → s.overlay.image.length ≤ 512 →
    (∀ z v, s.bus = .action (.overlayWrite o z v) :: rest →
      step s = .next { s with bus := rest, response := .nothing }) ∧
    (s.bus = .action (.overlayRead o .one) :: rest → o < 512 + s.overlay.extra →
      step s = .next { s with bus := rest, response := .value (.byte (s.overlay.byte o)) }) ∧
    (s.bus = .action (.overlayRead o .two) :: rest → o + 2 ≤ 512 + s.overlay.extra →
      step s =
        .next { s with bus := rest, response := .value (.half (s.overlay.byte (o + 1) ++ s.overlay.byte o)) }) ∧
    (s.bus = .action (.overlayRead o .four) :: rest → o + 4 ≤ 512 + s.overlay.extra →
      step s =
        .next { s with
          bus := rest,
          response := .value (.word (s.overlay.byte (o + 3) ++ s.overlay.byte (o + 2) ++ s.overlay.byte (o + 1) ++
            s.overlay.byte o)) }) ∧
    (∀ k, s.overlay.image[k]? = some (s.overlay.byte (512 + s.overlay.extra - s.overlay.image.length + k)) ∨
      s.overlay.image.length ≤ k) ∧
    (o < 512 + s.overlay.extra - s.overlay.image.length → s.overlay.byte o = 0)
end

