-- ==== Sys2Proof/Laws/Descriptor.lean ====
section
/-! SUPPORT. The fields of a packed descriptor (30_encoding.md R91): `pack` and the field functions undo each other. -/

namespace Sys2Proof

variable (r : Region) (d : Dir) (z : SizeCode) (o : Offset) (v : BitVec 32)

theorem pack_getLsbD (i : Nat) : (pack r d z o v).getLsbD i =
    if i < 32 then v.getLsbD i else if i < 64 then o.getLsbD (i - 32) else if i < 68 then false
    else if i < 70 then z.bits.getLsbD (i - 68) else if i = 70 then d.bit.getLsbD 0 else r.bit.getLsbD (i - 71) := by
  simp only [pack, BitVec.getLsbD_append, BitVec.getLsbD_zero]
  split
  · rfl
  · by_cases h : i < 64
    · rw [if_pos (show i - 32 < 32 by omega), if_pos h]
    · rw [if_neg (show ¬ i - 32 < 32 by omega), if_neg h]
      by_cases h' : i < 68
      · rw [if_pos (show i - 32 - 32 < 4 by omega), if_pos h']
      · rw [if_neg (show ¬ i - 32 - 32 < 4 by omega), if_neg h']
        by_cases h'' : i < 70
        · rw [if_pos (show i - 32 - 32 - 4 < 2 by omega), if_pos h'']; congr 1
        · rw [if_neg (show ¬ i - 32 - 32 - 4 < 2 by omega), if_neg h'']
          by_cases h3 : i = 70
          · subst h3; simp
          · rw [if_neg (show ¬ i - 32 - 32 - 4 - 2 < 1 by omega), if_neg h3]; congr 1

@[simp] theorem pack_offset : (pack r d z o v).offset = o := by
  apply BitVec.eq_of_getLsbD_eq
  intro i hi
  rw [TD.offset, BitVec.getLsbD_extractLsb', pack_getLsbD, if_neg (by omega), if_pos (by omega)]
  simp only [hi, decide_true, Bool.true_and]
  congr 1
  omega

@[simp] theorem pack_value : (pack r d z o v).value = v := by
  apply BitVec.eq_of_getLsbD_eq
  intro i hi
  rw [TD.value, BitVec.getLsbD_extractLsb', pack_getLsbD, if_pos (by omega)]
  simp only [hi, decide_true, Bool.true_and, Nat.zero_add]

@[simp] theorem pack_zeros : (pack r d z o v).zeros = 0 := by
  apply BitVec.eq_of_getLsbD_eq
  intro i hi
  rw [TD.zeros, BitVec.getLsbD_extractLsb', pack_getLsbD, if_neg (by omega), if_neg (by omega), if_pos (by omega)]
  simp

@[simp] theorem pack_region : (pack r d z o v).region = r := by
  rw [TD.region, pack_getLsbD]; cases r <;> rfl

@[simp] theorem pack_dir : (pack r d z o v).dir = d := by
  rw [TD.dir, pack_getLsbD]; cases d <;> rfl

@[simp] theorem pack_szc : (pack r d z o v).szc = z := by
  rw [TD.szc, pack_getLsbD, pack_getLsbD]; cases z <;> rfl

theorem pack_fields (td : TD) (h : td.zeros = 0) : pack td.region td.dir td.szc td.offset td.value = td := by
  apply BitVec.eq_of_getLsbD_eq
  intro i hi
  rw [pack_getLsbD]
  by_cases a : i < 32
  · rw [if_pos a, TD.value, BitVec.getLsbD_extractLsb']; simp only [a, decide_true, Bool.true_and, Nat.zero_add]
  rw [if_neg a]
  by_cases b : i < 64
  · rw [if_pos b, TD.offset, BitVec.getLsbD_extractLsb', show 32 + (i - 32) = i by omega]
    simp only [show i - 32 < 32 by omega, decide_true, Bool.true_and]
  rw [if_neg b]
  by_cases c : i < 68
  · have hz := congrArg (fun x => x.getLsbD (i - 64)) h
    simp only [TD.zeros, BitVec.getLsbD_extractLsb', show 64 + (i - 64) = i by omega,
      show i - 64 < 4 by omega, decide_true, Bool.true_and] at hz
    rw [if_pos c, hz]
    simp
  rw [if_neg c]
  have : i = 68 ∨ i = 69 ∨ i = 70 ∨ i = 71 := by omega
  rcases this with rfl | rfl | rfl | rfl
  · show td.szc.bits.getLsbD 0 = _
    rw [TD.szc]; cases td.getLsbD 69 <;> cases td.getLsbD 68 <;> rfl
  · show td.szc.bits.getLsbD 1 = _
    rw [TD.szc]; cases td.getLsbD 69 <;> cases td.getLsbD 68 <;> rfl
  · show td.dir.bit.getLsbD 0 = _
    rw [TD.dir]; cases td.getLsbD 70 <;> rfl
  · show td.region.bit.getLsbD 0 = _
    rw [TD.region]; cases td.getLsbD 71 <;> rfl

end Sys2Proof
end

