-- ==== Sys2Proof/Laws/State.lean ====
section
/-! SUPPORT. Each field after each named update of the state, true by unfolding, so that no proof unfolds a record update. -/

namespace Sys2Proof.Machine

variable (s : State)

/-! `State.raise` -/

@[simp] theorem raise_cfg (k : FaultKind) : (s.raise k).cfg = s.cfg := rfl
@[simp] theorem raise_mode (k : FaultKind) : (s.raise k).mode = s.mode := rfl
@[simp] theorem raise_cycle (k : FaultKind) : (s.raise k).cycle = s.cycle := rfl
@[simp] theorem raise_led (k : FaultKind) : (s.raise k).led = s.led := rfl
@[simp] theorem raise_bank (k : FaultKind) : (s.raise k).bank = s.bank := rfl
@[simp] theorem raise_mosi (k : FaultKind) : (s.raise k).mosi = s.mosi := rfl
@[simp] theorem raise_cs (k : FaultKind) : (s.raise k).cs = s.cs := rfl
@[simp] theorem raise_sck (k : FaultKind) : (s.raise k).sck = s.sck := rfl
@[simp] theorem raise_recovery (k : FaultKind) : (s.raise k).recovery = s.recovery := rfl
@[simp] theorem raise_miso1 (k : FaultKind) : (s.raise k).miso1 = s.miso1 := rfl
@[simp] theorem raise_miso4 (k : FaultKind) : (s.raise k).miso4 = s.miso4 := rfl
@[simp] theorem raise_flash (k : FaultKind) : (s.raise k).flash = s.flash := rfl
@[simp] theorem raise_fault (k : FaultKind) : (s.raise k).fault = some k := rfl
@[simp] theorem raise_overlay (k : FaultKind) : (s.raise k).overlay = s.overlay := rfl
@[simp] theorem raise_bus (k : FaultKind) : (s.raise k).bus = s.bus := rfl
@[simp] theorem raise_response (k : FaultKind) : (s.raise k).response = .nothing := rfl

/-! `State.answer` -/

@[simp] theorem answer_cfg (d : Datum) : (s.answer d).cfg = s.cfg := rfl
@[simp] theorem answer_mode (d : Datum) : (s.answer d).mode = s.mode := rfl
@[simp] theorem answer_cycle (d : Datum) : (s.answer d).cycle = s.cycle := rfl
@[simp] theorem answer_led (d : Datum) : (s.answer d).led = s.led := rfl
@[simp] theorem answer_bank (d : Datum) : (s.answer d).bank = s.bank := rfl
@[simp] theorem answer_mosi (d : Datum) : (s.answer d).mosi = s.mosi := rfl
@[simp] theorem answer_cs (d : Datum) : (s.answer d).cs = s.cs := rfl
@[simp] theorem answer_sck (d : Datum) : (s.answer d).sck = s.sck := rfl
@[simp] theorem answer_recovery (d : Datum) : (s.answer d).recovery = s.recovery := rfl
@[simp] theorem answer_miso1 (d : Datum) : (s.answer d).miso1 = s.miso1 := rfl
@[simp] theorem answer_miso4 (d : Datum) : (s.answer d).miso4 = s.miso4 := rfl
@[simp] theorem answer_flash (d : Datum) : (s.answer d).flash = s.flash := rfl
@[simp] theorem answer_fault (d : Datum) : (s.answer d).fault = s.fault := rfl
@[simp] theorem answer_overlay (d : Datum) : (s.answer d).overlay = s.overlay := rfl
@[simp] theorem answer_bus (d : Datum) : (s.answer d).bus = s.bus := rfl
@[simp] theorem answer_response (d : Datum) : (s.answer d).response = .value d := rfl

/-! `State.finish` -/

@[simp] theorem finish_cfg : s.finish.cfg = s.cfg := rfl
@[simp] theorem finish_mode : s.finish.mode = s.mode := rfl
@[simp] theorem finish_cycle : s.finish.cycle = s.cycle := rfl
@[simp] theorem finish_led : s.finish.led = s.led := rfl
@[simp] theorem finish_bank : s.finish.bank = s.bank := rfl
@[simp] theorem finish_mosi : s.finish.mosi = s.mosi := rfl
@[simp] theorem finish_cs : s.finish.cs = s.cs := rfl
@[simp] theorem finish_sck : s.finish.sck = s.sck := rfl
@[simp] theorem finish_recovery : s.finish.recovery = s.recovery := rfl
@[simp] theorem finish_miso1 : s.finish.miso1 = s.miso1 := rfl
@[simp] theorem finish_miso4 : s.finish.miso4 = s.miso4 := rfl
@[simp] theorem finish_flash : s.finish.flash = s.flash := rfl
@[simp] theorem finish_fault : s.finish.fault = s.fault := rfl
@[simp] theorem finish_overlay : s.finish.overlay = s.overlay := rfl
@[simp] theorem finish_bus : s.finish.bus = s.bus := rfl
@[simp] theorem finish_response : s.finish.response = .nothing := rfl

/-! `State.moveTo` -/

@[simp] theorem moveTo_cfg (m : Mode) (c : Cycle) : (s.moveTo m c).cfg = s.cfg := rfl
@[simp] theorem moveTo_mode (m : Mode) (c : Cycle) : (s.moveTo m c).mode = m := rfl
@[simp] theorem moveTo_cycle (m : Mode) (c : Cycle) : (s.moveTo m c).cycle = c := rfl
@[simp] theorem moveTo_led (m : Mode) (c : Cycle) : (s.moveTo m c).led = s.led := rfl
@[simp] theorem moveTo_bank (m : Mode) (c : Cycle) : (s.moveTo m c).bank = s.bank := rfl
@[simp] theorem moveTo_mosi (m : Mode) (c : Cycle) : (s.moveTo m c).mosi = s.mosi := rfl
@[simp] theorem moveTo_cs (m : Mode) (c : Cycle) : (s.moveTo m c).cs = s.cs := rfl
@[simp] theorem moveTo_sck (m : Mode) (c : Cycle) : (s.moveTo m c).sck = s.sck := rfl
@[simp] theorem moveTo_recovery (m : Mode) (c : Cycle) : (s.moveTo m c).recovery = s.recovery := rfl
@[simp] theorem moveTo_miso1 (m : Mode) (c : Cycle) : (s.moveTo m c).miso1 = s.miso1 := rfl
@[simp] theorem moveTo_miso4 (m : Mode) (c : Cycle) : (s.moveTo m c).miso4 = s.miso4 := rfl
@[simp] theorem moveTo_flash (m : Mode) (c : Cycle) : (s.moveTo m c).flash = s.flash := rfl
@[simp] theorem moveTo_fault (m : Mode) (c : Cycle) : (s.moveTo m c).fault = s.fault := rfl
@[simp] theorem moveTo_overlay (m : Mode) (c : Cycle) : (s.moveTo m c).overlay = s.overlay := rfl
@[simp] theorem moveTo_bus (m : Mode) (c : Cycle) : (s.moveTo m c).bus = s.bus := rfl
@[simp] theorem moveTo_response (m : Mode) (c : Cycle) : (s.moveTo m c).response = s.response := rfl

/-! `State.setLed` -/

@[simp] theorem setLed_cfg (v : Byte) : (s.setLed v).cfg = s.cfg := rfl
@[simp] theorem setLed_mode (v : Byte) : (s.setLed v).mode = s.mode := rfl
@[simp] theorem setLed_cycle (v : Byte) : (s.setLed v).cycle = s.cycle := rfl
@[simp] theorem setLed_led (v : Byte) : (s.setLed v).led = v.extractLsb' 0 3 := rfl
@[simp] theorem setLed_bank (v : Byte) : (s.setLed v).bank = s.bank := rfl
@[simp] theorem setLed_mosi (v : Byte) : (s.setLed v).mosi = s.mosi := rfl
@[simp] theorem setLed_cs (v : Byte) : (s.setLed v).cs = s.cs := rfl
@[simp] theorem setLed_sck (v : Byte) : (s.setLed v).sck = s.sck := rfl
@[simp] theorem setLed_recovery (v : Byte) : (s.setLed v).recovery = s.recovery := rfl
@[simp] theorem setLed_miso1 (v : Byte) : (s.setLed v).miso1 = s.miso1 := rfl
@[simp] theorem setLed_miso4 (v : Byte) : (s.setLed v).miso4 = s.miso4 := rfl
@[simp] theorem setLed_flash (v : Byte) : (s.setLed v).flash = s.flash := rfl
@[simp] theorem setLed_fault (v : Byte) : (s.setLed v).fault = s.fault := rfl
@[simp] theorem setLed_overlay (v : Byte) : (s.setLed v).overlay = s.overlay := rfl
@[simp] theorem setLed_bus (v : Byte) : (s.setLed v).bus = s.bus := rfl
@[simp] theorem setLed_response (v : Byte) : (s.setLed v).response = s.response := rfl

/-! `State.setBankSpi` -/

@[simp] theorem setBankSpi_cfg (v : Byte) : (s.setBankSpi v).cfg = s.cfg := rfl
@[simp] theorem setBankSpi_mode (v : Byte) : (s.setBankSpi v).mode = s.mode := rfl
@[simp] theorem setBankSpi_cycle (v : Byte) : (s.setBankSpi v).cycle = s.cycle := rfl
@[simp] theorem setBankSpi_led (v : Byte) : (s.setBankSpi v).led = s.led := rfl
@[simp] theorem setBankSpi_bank (v : Byte) : (s.setBankSpi v).bank = v.extractLsb' 0 4 := rfl
@[simp] theorem setBankSpi_mosi (v : Byte) : (s.setBankSpi v).mosi = v.getLsbD 4 := rfl
@[simp] theorem setBankSpi_cs (v : Byte) : (s.setBankSpi v).cs = v.getLsbD 5 := rfl
@[simp] theorem setBankSpi_sck (v : Byte) : (s.setBankSpi v).sck = v.getLsbD 6 := rfl
@[simp] theorem setBankSpi_recovery (v : Byte) : (s.setBankSpi v).recovery = s.recovery := rfl
@[simp] theorem setBankSpi_miso1 (v : Byte) : (s.setBankSpi v).miso1 = s.miso1 := rfl
@[simp] theorem setBankSpi_miso4 (v : Byte) : (s.setBankSpi v).miso4 = s.miso4 := rfl
@[simp] theorem setBankSpi_flash (v : Byte) : (s.setBankSpi v).flash = s.flash := rfl
@[simp] theorem setBankSpi_fault (v : Byte) : (s.setBankSpi v).fault = s.fault := rfl
@[simp] theorem setBankSpi_overlay (v : Byte) : (s.setBankSpi v).overlay = s.overlay := rfl
@[simp] theorem setBankSpi_bus (v : Byte) : (s.setBankSpi v).bus = s.bus := rfl
@[simp] theorem setBankSpi_response (v : Byte) : (s.setBankSpi v).response = s.response := rfl

/-! `State.setStatus` -/

@[simp] theorem setStatus_cfg (r m1 m4 : Bool) : (s.setStatus r m1 m4).cfg = s.cfg := rfl
@[simp] theorem setStatus_mode (r m1 m4 : Bool) : (s.setStatus r m1 m4).mode = s.mode := rfl
@[simp] theorem setStatus_cycle (r m1 m4 : Bool) : (s.setStatus r m1 m4).cycle = s.cycle := rfl
@[simp] theorem setStatus_led (r m1 m4 : Bool) : (s.setStatus r m1 m4).led = s.led := rfl
@[simp] theorem setStatus_bank (r m1 m4 : Bool) : (s.setStatus r m1 m4).bank = s.bank := rfl
@[simp] theorem setStatus_mosi (r m1 m4 : Bool) : (s.setStatus r m1 m4).mosi = s.mosi := rfl
@[simp] theorem setStatus_cs (r m1 m4 : Bool) : (s.setStatus r m1 m4).cs = s.cs := rfl
@[simp] theorem setStatus_sck (r m1 m4 : Bool) : (s.setStatus r m1 m4).sck = s.sck := rfl
@[simp] theorem setStatus_recovery (r m1 m4 : Bool) : (s.setStatus r m1 m4).recovery = r := rfl
@[simp] theorem setStatus_miso1 (r m1 m4 : Bool) : (s.setStatus r m1 m4).miso1 = m1 := rfl
@[simp] theorem setStatus_miso4 (r m1 m4 : Bool) : (s.setStatus r m1 m4).miso4 = m4 := rfl
@[simp] theorem setStatus_flash (r m1 m4 : Bool) : (s.setStatus r m1 m4).flash = s.flash := rfl
@[simp] theorem setStatus_fault (r m1 m4 : Bool) : (s.setStatus r m1 m4).fault = s.fault := rfl
@[simp] theorem setStatus_overlay (r m1 m4 : Bool) : (s.setStatus r m1 m4).overlay = s.overlay := rfl
@[simp] theorem setStatus_bus (r m1 m4 : Bool) : (s.setStatus r m1 m4).bus = s.bus := rfl
@[simp] theorem setStatus_response (r m1 m4 : Bool) : (s.setStatus r m1 m4).response = s.response := rfl

/-! `State.writeByte` changes the flash store only -/

@[simp] theorem writeByte_cfg (a : Nat) (b : Byte) : (s.writeByte a b).cfg = s.cfg := rfl
@[simp] theorem writeByte_mode (a : Nat) (b : Byte) : (s.writeByte a b).mode = s.mode := rfl
@[simp] theorem writeByte_cycle (a : Nat) (b : Byte) : (s.writeByte a b).cycle = s.cycle := rfl
@[simp] theorem writeByte_led (a : Nat) (b : Byte) : (s.writeByte a b).led = s.led := rfl
@[simp] theorem writeByte_bank (a : Nat) (b : Byte) : (s.writeByte a b).bank = s.bank := rfl
@[simp] theorem writeByte_mosi (a : Nat) (b : Byte) : (s.writeByte a b).mosi = s.mosi := rfl
@[simp] theorem writeByte_cs (a : Nat) (b : Byte) : (s.writeByte a b).cs = s.cs := rfl
@[simp] theorem writeByte_sck (a : Nat) (b : Byte) : (s.writeByte a b).sck = s.sck := rfl
@[simp] theorem writeByte_recovery (a : Nat) (b : Byte) : (s.writeByte a b).recovery = s.recovery := rfl
@[simp] theorem writeByte_miso1 (a : Nat) (b : Byte) : (s.writeByte a b).miso1 = s.miso1 := rfl
@[simp] theorem writeByte_miso4 (a : Nat) (b : Byte) : (s.writeByte a b).miso4 = s.miso4 := rfl
@[simp] theorem writeByte_fault (a : Nat) (b : Byte) : (s.writeByte a b).fault = s.fault := rfl
@[simp] theorem writeByte_overlay (a : Nat) (b : Byte) : (s.writeByte a b).overlay = s.overlay := rfl
@[simp] theorem writeByte_bus (a : Nat) (b : Byte) : (s.writeByte a b).bus = s.bus := rfl
@[simp] theorem writeByte_response (a : Nat) (b : Byte) : (s.writeByte a b).response = s.response := rfl

/-! `State.memWrite` changes the flash store only -/

/-- A multi-byte write is a change of the flash store. -/
theorem State.memWrite_eq (p n v : Nat) : ∃ m, s.memWrite p n v = { s with flash := m } := by
  induction n generalizing s p v with
  | zero => exact ⟨s.flash, rfl⟩
  | succ n ih =>
    obtain ⟨m, h⟩ := ih (s.writeByte p (BitVec.ofNat 8 v)) (p + 1) (v / 0x100)
    exact ⟨m, h⟩

@[simp] theorem memWrite_cfg (p n v : Nat) : (s.memWrite p n v).cfg = s.cfg := by
  obtain ⟨m, h⟩ := s.memWrite_eq p n v; rw [h]
@[simp] theorem memWrite_mode (p n v : Nat) : (s.memWrite p n v).mode = s.mode := by
  obtain ⟨m, h⟩ := s.memWrite_eq p n v; rw [h]
@[simp] theorem memWrite_cycle (p n v : Nat) : (s.memWrite p n v).cycle = s.cycle := by
  obtain ⟨m, h⟩ := s.memWrite_eq p n v; rw [h]
@[simp] theorem memWrite_led (p n v : Nat) : (s.memWrite p n v).led = s.led := by
  obtain ⟨m, h⟩ := s.memWrite_eq p n v; rw [h]
@[simp] theorem memWrite_bank (p n v : Nat) : (s.memWrite p n v).bank = s.bank := by
  obtain ⟨m, h⟩ := s.memWrite_eq p n v; rw [h]
@[simp] theorem memWrite_mosi (p n v : Nat) : (s.memWrite p n v).mosi = s.mosi := by
  obtain ⟨m, h⟩ := s.memWrite_eq p n v; rw [h]
@[simp] theorem memWrite_cs (p n v : Nat) : (s.memWrite p n v).cs = s.cs := by
  obtain ⟨m, h⟩ := s.memWrite_eq p n v; rw [h]
@[simp] theorem memWrite_sck (p n v : Nat) : (s.memWrite p n v).sck = s.sck := by
  obtain ⟨m, h⟩ := s.memWrite_eq p n v; rw [h]
@[simp] theorem memWrite_recovery (p n v : Nat) : (s.memWrite p n v).recovery = s.recovery := by
  obtain ⟨m, h⟩ := s.memWrite_eq p n v; rw [h]
@[simp] theorem memWrite_miso1 (p n v : Nat) : (s.memWrite p n v).miso1 = s.miso1 := by
  obtain ⟨m, h⟩ := s.memWrite_eq p n v; rw [h]
@[simp] theorem memWrite_miso4 (p n v : Nat) : (s.memWrite p n v).miso4 = s.miso4 := by
  obtain ⟨m, h⟩ := s.memWrite_eq p n v; rw [h]
@[simp] theorem memWrite_fault (p n v : Nat) : (s.memWrite p n v).fault = s.fault := by
  obtain ⟨m, h⟩ := s.memWrite_eq p n v; rw [h]
@[simp] theorem memWrite_overlay (p n v : Nat) : (s.memWrite p n v).overlay = s.overlay := by
  obtain ⟨m, h⟩ := s.memWrite_eq p n v; rw [h]
@[simp] theorem memWrite_bus (p n v : Nat) : (s.memWrite p n v).bus = s.bus := by
  obtain ⟨m, h⟩ := s.memWrite_eq p n v; rw [h]
@[simp] theorem memWrite_response (p n v : Nat) : (s.memWrite p n v).response = s.response := by
  obtain ⟨m, h⟩ := s.memWrite_eq p n v; rw [h]

/-! The flash bytes, the position and the selected bank see only their own fields -/

/-- FLASH is a function of the configuration and the cells. -/
theorem flashByte_congr {s t : State} (hc : t.cfg = s.cfg) (hf : t.flash = s.flash) (a : Nat) :
    t.flashByte a = s.flashByte a := by
  unfold State.flashByte; rw [hc, hf]

/-- The selected bank is a function of the configuration and `S.bank`. -/
theorem selectedBank_congr {s t : State} (hc : t.cfg = s.cfg) (hb : t.bank = s.bank) :
    t.selectedBank = s.selectedBank := by
  unfold State.selectedBank; rw [hc, hb]

@[simp] theorem position_mk : s.position = ⟨s.mode, s.cycle⟩ := rfl

end Sys2Proof.Machine
end

