-- ==== Sys2Proof/Laws/Memory.lean ====
section
/-! SUPPORT. The flash store: what a byte reads as after a write, and that writing keeps the canonical form. -/

namespace Sys2Proof.Machine

/-! ### Cells -/

theorem Memory.lookup_insert (m : Memory) (a : Nat) (b : Byte) (x : Nat) :
    Memory.lookup (Memory.insert m a b) x = if x = a then some b else Memory.lookup m x := by
  induction m with
  | nil => simp [Memory.insert, Memory.lookup, eq_comm]
  | cons c rest ih =>
    obtain ⟨k, d⟩ := c
    simp only [Memory.insert]
    by_cases h1 : a < k
    · rw [if_pos h1]; simp [Memory.lookup, eq_comm]
    rw [if_neg h1]
    by_cases h2 : k = a
    · rw [if_pos h2]
      subst h2
      by_cases hx : x = k
      · simp [Memory.lookup, hx]
      · simp [Memory.lookup, hx, Ne.symm hx]
    · rw [if_neg h2]
      simp only [Memory.lookup]
      by_cases hx : k = x
      · simp [hx, show ¬ x = a from fun e => h2 (hx.trans e)]
      · simp [hx, ih]

theorem Memory.lookup_erase (m : Memory) (a x : Nat) :
    Memory.lookup (Memory.erase m a) x = if x = a then none else Memory.lookup m x := by
  induction m with
  | nil => simp [Memory.erase, Memory.lookup]
  | cons c rest ih =>
    obtain ⟨k, d⟩ := c
    simp only [Memory.erase]
    by_cases h : k = a
    · rw [if_pos h, ih]
      by_cases hx : x = a
      · simp [hx]
      · simp [hx, Memory.lookup, show ¬ k = x from fun e => hx (e ▸ h)]
    · rw [if_neg h]
      simp only [Memory.lookup]
      by_cases hk : k = x
      · simp [hk, show ¬ x = a from fun e => h (hk.trans e)]
      · simp [hk, ih]

/-! ### One byte -/

/-- What FLASH reads as after one byte is written (R57). -/
theorem flashByte_writeByte (s : State) (a : Nat) (b : Byte) (x : Nat) :
    (s.writeByte a b).flashByte x = if x = a then b else s.flashByte x := by
  unfold State.writeByte State.flashByte
  by_cases h : b = s.cfg.initByte a
  · simp only [h, if_true, Memory.lookup_erase]
    by_cases hx : x = a
    · simp [hx]
    · simp [hx]
  · simp only [h, if_false, Memory.lookup_insert]
    by_cases hx : x = a
    · simp [hx]
    · simp [hx]

/-! ### Several bytes -/

/-- What FLASH reads as after `MemWrite(p, n, v)` (R57). -/
theorem flashByte_memWrite (s : State) (p n v x : Nat) :
    (s.memWrite p n v).flashByte x =
      if p ≤ x ∧ x < p + n then BitVec.ofNat 8 (v / 0x100 ^ (x - p)) else s.flashByte x := by
  induction n generalizing s p v with
  | zero => simp only [State.memWrite]; rw [if_neg (by omega)]
  | succ n ih =>
    simp only [State.memWrite]
    rw [ih, flashByte_writeByte]
    by_cases hx : x = p
    · subst hx; simp
    · by_cases h : p + 1 ≤ x ∧ x < p + 1 + n
      · rw [if_pos h, if_pos (by omega), Nat.div_div_eq_div_mul, ← Nat.pow_succ']
        congr 3; omega
      · rw [if_neg h, if_neg hx, if_neg (by omega)]

/-- `MemRead` sees only the `n` bytes from `p` (R56). -/
theorem memRead_congr {s t : State} (p n : Nat) (h : ∀ x, p ≤ x → x < p + n → t.flashByte x = s.flashByte x) :
    t.memRead p n = s.memRead p n := by
  induction n generalizing p with
  | zero => rfl
  | succ n ih =>
    simp only [State.memRead]
    rw [h p (by omega) (by omega), ih (p + 1) fun x h1 h2 => h x (by omega) (by omega)]

/-! ### The canonical form -/

theorem Memory.rising_mono {m : Memory} {i j : Nat} (hij : j ≤ i) (h : Memory.rising m i = true) :
    Memory.rising m j = true := by
  cases m with
  | nil => rfl
  | cons c rest =>
    simp only [Memory.rising, Bool.and_eq_true, decide_eq_true_eq] at h ⊢
    exact ⟨by omega, h.2⟩

theorem Memory.rising_erase {m : Memory} {i : Nat} (a : Nat) (h : Memory.rising m i = true) :
    Memory.rising (Memory.erase m a) i = true := by
  induction m generalizing i with
  | nil => rfl
  | cons c rest ih =>
    simp only [Memory.rising, Bool.and_eq_true, decide_eq_true_eq] at h
    simp only [Memory.erase]
    split_ifs with hk
    · exact Memory.rising_mono (by omega) (ih h.2)
    · simp only [Memory.rising, Bool.and_eq_true, decide_eq_true_eq]
      exact ⟨h.1, ih h.2⟩

theorem Memory.rising_insert {m : Memory} {i : Nat} (a : Nat) (b : Byte) (hi : i ≤ a) (h : Memory.rising m i = true) :
    Memory.rising (Memory.insert m a b) i = true := by
  induction m generalizing i with
  | nil => simp [Memory.insert, Memory.rising, hi]
  | cons c rest ih =>
    simp only [Memory.rising, Bool.and_eq_true, decide_eq_true_eq] at h
    simp only [Memory.insert]
    split_ifs with h1 h2
    · simp only [Memory.rising, Bool.and_eq_true, decide_eq_true_eq]
      exact ⟨hi, by omega, h.2⟩
    · simp only [Memory.rising, Bool.and_eq_true, decide_eq_true_eq]
      exact ⟨hi, h2 ▸ h.2⟩
    · simp only [Memory.rising, Bool.and_eq_true, decide_eq_true_eq]
      exact ⟨h.1, ih (by omega) h.2⟩

theorem Memory.mem_erase {m : Memory} {a : Nat} {c : Host.Cell} (h : c ∈ Memory.erase m a) : c ∈ m := by
  induction m with
  | nil => exact h
  | cons d rest ih =>
    simp only [Memory.erase] at h
    split_ifs at h
    · exact List.mem_cons_of_mem _ (ih h)
    · rcases List.mem_cons.mp h with h | h
      · exact h ▸ List.mem_cons_self
      · exact List.mem_cons_of_mem _ (ih h)

theorem Memory.mem_insert {m : Memory} {a : Nat} {b : Byte} {c : Host.Cell} (h : c ∈ Memory.insert m a b) :
    c = (a, b) ∨ c ∈ m := by
  induction m with
  | nil => exact Or.inl (List.mem_singleton.mp h)
  | cons d rest ih =>
    simp only [Memory.insert] at h
    split_ifs at h
    · rcases List.mem_cons.mp h with h | h
      · exact Or.inl h
      · exact Or.inr h
    · rcases List.mem_cons.mp h with h | h
      · exact Or.inl h
      · exact Or.inr (List.mem_cons_of_mem _ h)
    · rcases List.mem_cons.mp h with h | h
      · exact Or.inr (h ▸ List.mem_cons_self)
      · rcases ih h with h | h
        · exact Or.inl h
        · exact Or.inr (List.mem_cons_of_mem _ h)

/-- What the canonical form says. -/
theorem Memory.wf_iff {cfg : Config} {m : Memory} :
    Memory.wf cfg m = true ↔ Memory.rising m 0 = true ∧ ∀ c ∈ m, c.1 < flashSize ∧ c.2 ≠ cfg.initByte c.1 := by
  simp only [Memory.wf, Bool.and_eq_true, List.all_eq_true, decide_eq_true_eq]

/-- The empty list is canonical: so is the flash store after reset. -/
theorem Memory.wf_nil (cfg : Config) : Memory.wf cfg [] = true := rfl

/-- The flash store after reset is canonical, whatever the configuration. -/
theorem wf_reset : Memory.wf State.reset.cfg State.reset.flash = true := Memory.wf_nil _

/-- Below its first address a rising list holds nothing. -/
theorem Memory.lookup_below {m : Memory} {i a : Nat} (h : Memory.rising m i = true) (ha : a < i) :
    Memory.lookup m a = none := by
  induction m generalizing i with
  | nil => rfl
  | cons c rest ih =>
    simp only [Memory.rising, Bool.and_eq_true, decide_eq_true_eq] at h
    simp only [Memory.lookup]
    rw [if_neg (by omega), ih h.2 (by omega)]

/-- Rising lists that hold the same cells are the same list. -/
theorem Memory.eq_of_lookup {m n : Memory} {i : Nat} (hm : Memory.rising m i = true) (hn : Memory.rising n i = true)
    (h : ∀ a, Memory.lookup m a = Memory.lookup n a) : m = n := by
  induction m generalizing n i with
  | nil =>
    cases n with
    | nil => rfl
    | cons c rest => have := h c.1; simp [Memory.lookup] at this
  | cons c rest ih =>
    cases n with
    | nil => have := h c.1; simp [Memory.lookup] at this
    | cons d rest' =>
      simp only [Memory.rising, Bool.and_eq_true, decide_eq_true_eq] at hm hn
      have hk : c.1 = d.1 := by
        have h1 := h c.1
        have h2 := h d.1
        simp only [Memory.lookup, if_true] at h1 h2
        rcases Nat.lt_trichotomy c.1 d.1 with g | g | g
        · rw [if_neg (by omega), Memory.lookup_below hn.2 (by omega)] at h1; cases h1
        · exact g
        · rw [if_neg (by omega), Memory.lookup_below hm.2 (by omega)] at h2; cases h2
      have hv : c.2 = d.2 := by
        have h1 := h c.1
        simpa [Memory.lookup, hk] using h1
      rw [show c = d from Prod.ext hk hv, ih hm.2 (hk ▸ hn.2) fun a => ?_]
      have ha := h a
      simp only [Memory.lookup] at ha
      by_cases g : c.1 = a
      · rw [Memory.lookup_below hm.2 (by omega), Memory.lookup_below hn.2 (by omega)]
      · rwa [if_neg g, if_neg (by omega)] at ha

/-- Equal memories are equal data: canonical stores that read alike at every address are the same list. -/
theorem flash_eq_of_sameBytes {s t : State} (hc : t.cfg = s.cfg) (hs : Memory.wf s.cfg s.flash = true)
    (ht : Memory.wf t.cfg t.flash = true) (h : ∀ a, t.flashByte a = s.flashByte a) : t.flash = s.flash := by
  rw [Memory.wf_iff] at hs ht
  refine Memory.eq_of_lookup ht.1 hs.1 fun a => ?_
  have ha := h a
  simp only [State.flashByte, hc] at ha
  have key : ∀ {m : Memory}, (∀ c ∈ m, c.1 < flashSize ∧ c.2 ≠ s.cfg.initByte c.1) →
      ∀ b, Memory.lookup m a = some b → b ≠ s.cfg.initByte a := by
    intro m
    induction m with
    | nil => intro _ b hb; cases hb
    | cons c rest ih =>
      intro hm b hb
      simp only [Memory.lookup] at hb
      split_ifs at hb with g
      · cases hb; exact g ▸ (hm c List.mem_cons_self).2
      · exact ih (fun d hd => hm d (List.mem_cons_of_mem _ hd)) b hb
  rcases hx : Memory.lookup t.flash a with _ | x <;> rcases hy : Memory.lookup s.flash a with _ | y <;>
    rw [hx, hy] at ha <;> simp only [Option.getD] at ha
  · exact absurd ha.symm (key hs.2 y hy)
  · exact absurd ha (key (hc ▸ ht.2) x hx)
  · rw [ha]

/-- Writing a byte of the store keeps the canonical form. -/
theorem wf_writeByte {s : State} {a : Nat} (b : Byte) (ha : a < flashSize) (h : Memory.wf s.cfg s.flash = true) :
    Memory.wf (s.writeByte a b).cfg (s.writeByte a b).flash = true := by
  rw [Memory.wf_iff] at h ⊢
  simp only [writeByte_cfg]
  simp only [State.writeByte]
  split_ifs with hb
  · exact ⟨Memory.rising_erase a h.1, fun c hc => h.2 c (Memory.mem_erase hc)⟩
  · refine ⟨Memory.rising_insert a b (Nat.zero_le _) h.1, fun c hc => ?_⟩
    rcases Memory.mem_insert hc with rfl | hc
    · exact ⟨ha, hb⟩
    · exact h.2 c hc

/-- `MemWrite` inside the store keeps the canonical form. -/
theorem wf_memWrite {s : State} {p n : Nat} (v : Nat) (hp : p + n ≤ flashSize) (h : Memory.wf s.cfg s.flash = true) :
    Memory.wf s.cfg (s.memWrite p n v).flash = true := by
  induction n generalizing s p v with
  | zero => exact h
  | succ n ih =>
    exact ih (s := s.writeByte p (BitVec.ofNat 8 v)) (v / 0x100) (by omega)
      (wf_writeByte _ (by omega) h)

end Sys2Proof.Machine
end

