-- ==== Sys2Proof/Laws/PerInstr.lean ====
section
/-! SUPPORT. The family `RowFields`: the descriptor of a well-formed operation carries the selecting fields of its row of the
opcode table, region, direction and size (30_encoding.md R91, R97 to R99). -/

namespace Sys2Proof.Laws.RowFields

/-- What a row fixes of the size code. -/
inductive RowSize where
  | one
  | legal
  | other
  | notOne

/-- The size code is one the row admits. -/
def RowSize.admits (r : RowSize) (z : SizeCode) : Bool :=
  match r with
  | .one => decide (z = .one)
  | .legal => decide (z ≠ .other)
  | .other => decide (z = .other)
  | .notOne => decide (z ≠ .one)

/-- The selecting fields of a row: region, direction (`none` is either) and size. -/
def rowOf : Instr → Region × Option Dir × RowSize
  | .fwBadsize _ _ => (.flash, some .write, .other)
  | .fwProgData _ _ => (.flash, some .write, .legal)
  | .fwReset => (.flash, some .write, .one)
  | .fwCfiq => (.flash, some .write, .one)
  | .fwUnlock1 => (.flash, some .write, .one)
  | .fwUnlock2 => (.flash, some .write, .one)
  | .fwEraseSetup => (.flash, some .write, .one)
  | .fwAutosel => (.flash, some .write, .one)
  | .fwProgSetup => (.flash, some .write, .one)
  | .fwUnlock3 => (.flash, some .write, .one)
  | .fwUnlock4 => (.flash, some .write, .one)
  | .fwSectorErase _ => (.flash, some .write, .one)
  | .fwIgnored _ _ => (.flash, some .write, .legal)
  | .frBadsize _ => (.flash, some .read, .other)
  | .frArray _ _ => (.flash, some .read, .legal)
  | .frCfi _ _ => (.flash, some .read, .legal)
  | .frId _ _ => (.flash, some .read, .legal)
  | .frBusy _ _ => (.flash, some .read, .legal)
  | .iowLed _ => (.io, some .write, .one)
  | .iowLedRsvd _ => (.io, some .write, .one)
  | .iowBankspi _ => (.io, some .write, .one)
  | .iowBankspiRsvd _ => (.io, some .write, .one)
  | .iowUndef _ _ => (.io, some .write, .one)
  | .iorId => (.io, some .read, .one)
  | .iorStatus => (.io, some .read, .one)
  | .iorUndef _ => (.io, some .read, .one)
  | .ioBadsize _ _ _ _ => (.io, none, .notOne)

/-- The descriptor of a well-formed operation carries its row's fields. -/
def Statement (i : Instr) : Prop :=
  i.wellFormed = true →
    (encode i).zeros = 0 ∧ (encode i).region = (rowOf i).1 ∧
      (∀ d, (rowOf i).2.1 = some d → (encode i).dir = d) ∧ (rowOf i).2.2.admits (encode i).szc = true

/-- A packed descriptor with the row's fields. -/
theorem statement_of_pack {i : Instr} {r : Region} {d : Dir} {z : SizeCode} {o : Offset} {v : BitVec 32}
    (he : encode i = pack r d z o v) (hr : (rowOf i).1 = r) (hd : ∀ d', (rowOf i).2.1 = some d' → d' = d)
    (hz : i.wellFormed = true → (rowOf i).2.2.admits z = true) : Statement i := by
  intro hw
  rw [he]
  refine ⟨pack_zeros r d z o v, ?_, fun d' h => ?_, ?_⟩
  · rw [pack_region, hr]
  · rw [pack_dir, hd d' h]
  · rw [pack_szc]; exact hz hw

theorem fwBadsize (o : Offset) (v : BitVec 32) : Statement (.fwBadsize o v) :=
  statement_of_pack rfl rfl (fun _ h => by cases h; rfl) (fun _ => rfl)
theorem fwProgData (o : Offset) (d : Datum) : Statement (.fwProgData o d) :=
  statement_of_pack rfl rfl (fun _ h => by cases h; rfl) (fun _ => by cases d <;> rfl)
theorem fwReset : Statement .fwReset :=
  statement_of_pack rfl rfl (fun _ h => by cases h; rfl) (fun _ => rfl)
theorem fwCfiq : Statement .fwCfiq :=
  statement_of_pack rfl rfl (fun _ h => by cases h; rfl) (fun _ => rfl)
theorem fwUnlock1 : Statement .fwUnlock1 :=
  statement_of_pack rfl rfl (fun _ h => by cases h; rfl) (fun _ => rfl)
theorem fwUnlock2 : Statement .fwUnlock2 :=
  statement_of_pack rfl rfl (fun _ h => by cases h; rfl) (fun _ => rfl)
theorem fwEraseSetup : Statement .fwEraseSetup :=
  statement_of_pack rfl rfl (fun _ h => by cases h; rfl) (fun _ => rfl)
theorem fwAutosel : Statement .fwAutosel :=
  statement_of_pack rfl rfl (fun _ h => by cases h; rfl) (fun _ => rfl)
theorem fwProgSetup : Statement .fwProgSetup :=
  statement_of_pack rfl rfl (fun _ h => by cases h; rfl) (fun _ => rfl)
theorem fwUnlock3 : Statement .fwUnlock3 :=
  statement_of_pack rfl rfl (fun _ h => by cases h; rfl) (fun _ => rfl)
theorem fwUnlock4 : Statement .fwUnlock4 :=
  statement_of_pack rfl rfl (fun _ h => by cases h; rfl) (fun _ => rfl)
theorem fwSectorErase (o : Offset) : Statement (.fwSectorErase o) :=
  statement_of_pack rfl rfl (fun _ h => by cases h; rfl) (fun _ => rfl)
theorem fwIgnored (o : Offset) (d : Datum) : Statement (.fwIgnored o d) :=
  statement_of_pack rfl rfl (fun _ h => by cases h; rfl) (fun _ => by cases d <;> rfl)
theorem frBadsize (o : Offset) : Statement (.frBadsize o) :=
  statement_of_pack rfl rfl (fun _ h => by cases h; rfl) (fun _ => rfl)
theorem frArray (o : Offset) (n : Size) : Statement (.frArray o n) :=
  statement_of_pack rfl rfl (fun _ h => by cases h; rfl) (fun _ => by cases n <;> rfl)
theorem frCfi (o : Offset) (n : Size) : Statement (.frCfi o n) :=
  statement_of_pack rfl rfl (fun _ h => by cases h; rfl) (fun _ => by cases n <;> rfl)
theorem frId (o : Offset) (n : Size) : Statement (.frId o n) :=
  statement_of_pack rfl rfl (fun _ h => by cases h; rfl) (fun _ => by cases n <;> rfl)
theorem frBusy (o : Offset) (n : Size) : Statement (.frBusy o n) :=
  statement_of_pack rfl rfl (fun _ h => by cases h; rfl) (fun _ => by cases n <;> rfl)
theorem iowLed (v : Byte) : Statement (.iowLed v) :=
  statement_of_pack rfl rfl (fun _ h => by cases h; rfl) (fun _ => rfl)
theorem iowLedRsvd (v : Byte) : Statement (.iowLedRsvd v) :=
  statement_of_pack rfl rfl (fun _ h => by cases h; rfl) (fun _ => rfl)
theorem iowBankspi (v : Byte) : Statement (.iowBankspi v) :=
  statement_of_pack rfl rfl (fun _ h => by cases h; rfl) (fun _ => rfl)
theorem iowBankspiRsvd (v : Byte) : Statement (.iowBankspiRsvd v) :=
  statement_of_pack rfl rfl (fun _ h => by cases h; rfl) (fun _ => rfl)
theorem iowUndef (o : Offset) (v : Byte) : Statement (.iowUndef o v) :=
  statement_of_pack rfl rfl (fun _ h => by cases h; rfl) (fun _ => rfl)
theorem iorId : Statement .iorId :=
  statement_of_pack rfl rfl (fun _ h => by cases h; rfl) (fun _ => rfl)
theorem iorStatus : Statement .iorStatus :=
  statement_of_pack rfl rfl (fun _ h => by cases h; rfl) (fun _ => rfl)
theorem iorUndef (o : Offset) : Statement (.iorUndef o) :=
  statement_of_pack rfl rfl (fun _ h => by cases h; rfl) (fun _ => rfl)
theorem ioBadsize (dir : Dir) (szc : SizeCode) (o : Offset) (v : BitVec 32) : Statement (.ioBadsize dir szc o v) :=
  statement_of_pack rfl rfl (fun _ h => by cases h) (fun h => by
    simp only [Instr.wellFormed, Bool.and_eq_true, decide_eq_true_eq] at h
    simp [rowOf, RowSize.admits, h.1.1.1])

end Sys2Proof.Laws.RowFields
end

