-- ==== Sys2Proof/Laws/Shared.lean ====
section
/-! SUPPORT. What each shared operation can do, said once: the gate on `S.fault`, a translating access, taking the oldest
interaction and delivering a transaction. -/

namespace Sys2Proof

/-- A bank size is a positive multiple of four. -/
theorem BankDescriptor.size_pos (b : BankDescriptor) : 0 < b.size := by
  cases b <;> simp [BankDescriptor.size]

/-- The invariant of R34, which the type holds. -/
theorem BankDescriptor.fits (b : BankDescriptor) : b.offset + b.size ≤ flashSize := by
  cases b with
  | mib1 o => have := o.isLt; simp only [BankDescriptor.offset, BankDescriptor.size, flashSize]; omega
  | kib512 o => have := o.isLt; simp only [BankDescriptor.offset, BankDescriptor.size, flashSize]; omega
  | kib256 o => have := o.isLt; simp only [BankDescriptor.offset, BankDescriptor.size, flashSize]; omega

/-- Bitwise OR never exceeds the sum. -/
theorem or_le_add (x y : Nat) : x ||| y ≤ x + y := by
  induction x using Nat.strongRecOn generalizing y with
  | _ x ih =>
    by_cases hx : x = 0
    · simp [hx]
    · have h := ih (x / 2) (by omega) (y / 2)
      have hd : (x ||| y) / 2 = x / 2 ||| y / 2 := Nat.or_div_two
      have hm : (x ||| y) % 2 ≤ x % 2 + y % 2 := by
        rcases Nat.mod_two_eq_zero_or_one x with h0 | h1
        · rcases Nat.mod_two_eq_zero_or_one y with g0 | g1
          · have := (Nat.or_mod_two_eq_one (a := x) (b := y)).not.mpr (by omega)
            omega
          · omega
        · omega
      omega

/-- An access inside the bank window is inside the store (R63). -/
theorem translate_fits (l n : Nat) (b : BankDescriptor) (h : l % b.size + n ≤ b.size) :
    translate l b + n ≤ flashSize := by
  have h1 : translate l b ≤ l % b.size + b.offset := by
    unfold translate; exact or_le_add _ _
  have := b.fits
  omega

theorem Size.bytes_pos (n : Size) : 0 < n.bytes := by cases n <;> simp [Size.bytes]

@[simp] theorem SizeCode.ofBytes_one : SizeCode.ofBytes 1 = .one := rfl
@[simp] theorem SizeCode.ofBytes_two : SizeCode.ofBytes 2 = .two := rfl
@[simp] theorem SizeCode.ofBytes_four : SizeCode.ofBytes 4 = .four := rfl

/-- Every size but 1, 2, 4 has the code 3 (R91). -/
theorem SizeCode.ofBytes_eq_other {n : Nat} : SizeCode.ofBytes n = .other ↔ n ≠ 1 ∧ n ≠ 2 ∧ n ≠ 4 := by
  unfold SizeCode.ofBytes; split_ifs <;> simp_all

theorem SizeCode.ofBytes_eq_one {n : Nat} : SizeCode.ofBytes n = .one ↔ n = 1 := by
  unfold SizeCode.ofBytes; split_ifs <;> simp_all

/-- The number of bytes named for a code has that code. -/
@[simp] theorem SizeCode.ofBytes_bytes (z : SizeCode) : SizeCode.ofBytes z.bytes = z := by cases z <;> rfl

/-- Of an accepted size the code names the size. -/
@[simp] theorem Size.bytes_code (n : Size) : n.code.bytes = n.bytes := by cases n <;> rfl

theorem insideWindow_iff {w o n : Nat} : insideWindow w o n = true ↔ o < w ∧ o + n ≤ w := by
  simp only [insideWindow, Bool.and_eq_true, decide_eq_true_eq]

/-- What R54 asks of a flash access; the least flash window, asked first, is inside every flash window (R7). -/
theorem Config.inFlashWindow_iff (cfg : Config) (o n : Nat) :
    cfg.inFlashWindow o n = true ↔ o < cfg.flashWindowSize ∧ o + n ≤ cfg.flashWindowSize := by
  have h : flashWindowMin ≤ cfg.flashWindowSize := Nat.le_add_right _ _
  simp only [Config.inFlashWindow, Bool.or_eq_true, insideWindow_iff]
  omega

namespace Machine

variable {s t : State} {x : Host.Outcome State Fault Refusal}

/-! ### The gate -/

theorem whenRunning_running (h : s.fault = none) : whenRunning s x = x := by
  unfold whenRunning; rw [h]

theorem whenRunning_ended {k : FaultKind} (h : s.fault = some k) : whenRunning s x = .fault (.runEnded k) := by
  unfold whenRunning; rw [h]

/-- An interaction completes only in a running state. -/
theorem whenRunning_eq_next : whenRunning s x = .next t ↔ s.fault = none ∧ x = .next t := by
  cases h : s.fault with
  | none => simp [whenRunning_running h]
  | some k => simp [whenRunning_ended h]

/-! ### A translating access -/

/-- `S.bank` names no descriptor exactly when it is above 10 (R62). -/
theorem selectedBank_eq_none : s.selectedBank = none ↔ 10 < s.bank.toNat := by
  simp only [State.selectedBank, Vector.getElem?_eq_none_iff]; omega

/-- The three things a translating access can be (R62, R63). -/
theorem withTranslation_cases (s : State) (l n : Nat) (f : Nat → State) :
    (s.selectedBank = none ∧ withTranslation s l n f = s.raise .bankIndex) ∨
    (∃ b, s.selectedBank = some b ∧ b.size < l % b.size + n ∧ withTranslation s l n f = s.raise .flashSpan) ∨
    (∃ b, s.selectedBank = some b ∧ l % b.size + n ≤ b.size ∧ translate l b + n ≤ flashSize ∧
      withTranslation s l n f = f (translate l b)) := by
  unfold withTranslation
  cases hb : s.selectedBank with
  | none => exact Or.inl ⟨rfl, rfl⟩
  | some b =>
    right
    by_cases h : l % b.size + n > b.size
    · exact Or.inl ⟨b, rfl, h, if_pos h⟩
    · exact Or.inr ⟨b, rfl, by omega, translate_fits l n b (by omega), if_neg h⟩

/-! ### Taking and delivering -/

/-- Of a flash transaction R54 asks the window, of any size. -/
@[simp] theorem deliverable_flash (cfg : Config) (dir : Dir) (z : SizeCode) (o : Offset) (v : BitVec 32) (n : Nat) :
    deliverable cfg (pack .flash dir z o v) n = cfg.inFlashWindow o.toNat n := by
  simp [deliverable]

/-- Of an I/O transaction R54 asks the offset alone. -/
@[simp] theorem deliverable_io (cfg : Config) (dir : Dir) (z : SizeCode) (o : Offset) (v : BitVec 32) (n : Nat) :
    deliverable cfg (pack .io dir z o v) n = decide (o.toNat < ioWindowSize) := by
  simp [deliverable]

theorem fetch_ended {k : FaultKind} (h : s.fault = some k) : fetch s = .ended k := by
  unfold fetch; rw [h]

theorem fetch_idle (h : s.fault = none) (hb : s.bus = []) : fetch s = .idle := by
  unfold fetch; rw [h, hb]

theorem fetch_transaction {td : TD} {n : Nat} {rest : List HostEvent} (h : s.fault = none)
    (hb : s.bus = .transaction td n :: rest) : fetch s = deliver { s with bus := rest } td n := by
  unfold fetch; rw [h, hb]

theorem fetch_action {a : HostAction} {rest : List HostEvent} (h : s.fault = none)
    (hb : s.bus = .action a :: rest) : fetch s = .action a { s with bus := rest } := by
  unfold fetch; rw [h, hb]

/-- The four things delivering a transaction can be (R54, R91, R100). -/
theorem deliver_cases (s : State) (td : TD) (n : Nat) :
    (∃ e, decode s.position td = .error e ∧ deliver s td n = .rejected (rejection e)) ∨
    (∃ i, decode s.position td = .ok i ∧
      ((td.szc ≠ SizeCode.ofBytes n ∧ deliver s td n = .rejected .wrongSizeCode) ∨
        (td.szc = SizeCode.ofBytes n ∧ deliverable s.cfg td n = false ∧ deliver s td n = .rejected .notDeliverable) ∨
        (td.szc = SizeCode.ofBytes n ∧ deliverable s.cfg td n = true ∧ deliver s td n = .instr i s))) := by
  unfold deliver
  cases hd : decode s.position td with
  | error e => exact Or.inl ⟨e, rfl, rfl⟩
  | ok i =>
    refine Or.inr ⟨i, rfl, ?_⟩
    by_cases hz : td.szc = SizeCode.ofBytes n
    · cases hr : deliverable s.cfg td n with
      | false => exact Or.inr (Or.inl ⟨hz, rfl, by simp [hz]⟩)
      | true => exact Or.inr (Or.inr ⟨hz, rfl, by simp [hz]⟩)
    · exact Or.inl ⟨hz, by simp [hz]⟩

theorem deliver_instr {td : TD} {n : Nat} {i : Instr} (hd : decode s.position td = .ok i)
    (hz : td.szc = SizeCode.ofBytes n) (hr : deliverable s.cfg td n = true) : deliver s td n = .instr i s := by
  unfold deliver; rw [hd]; simp [hz, hr]

theorem deliver_notDeliverable {td : TD} {n : Nat} {i : Instr} (hd : decode s.position td = .ok i)
    (hz : td.szc = SizeCode.ofBytes n) (hr : deliverable s.cfg td n = false) :
    deliver s td n = .rejected .notDeliverable := by
  unfold deliver; rw [hd]; simp [hz, hr]

/-- A transaction the host issues, in a running state: what its descriptor decodes to is executed. -/
theorem receiveSized_eq_exec {td : TD} {n : Nat} {i : Instr} (h : s.fault = none) (hd : decode s.position td = .ok i)
    (hz : td.szc = SizeCode.ofBytes n) (hr : deliverable s.cfg td n = true) : s.receiveSized td n = exec i s := by
  unfold State.receiveSized step
  rw [fetch_transaction (s := { s with bus := .transaction td n :: s.bus }) h rfl]
  rw [deliver_instr (s := { s with bus := s.bus }) hd hz hr]

/-- A word that is no descriptor of a transaction is refused, whatever the size said with it. -/
theorem receiveSized_rejected {td : TD} {n : Nat} {e : DecodeError} (h : s.fault = none)
    (hd : decode s.position td = .error e) : s.receiveSized td n = .refused (rejection e) := by
  unfold State.receiveSized step
  rw [fetch_transaction (s := { s with bus := .transaction td n :: s.bus }) h rfl]
  unfold deliver
  rw [show decode ({ s with bus := s.bus } : State).position td = .error e from hd]

/-- A transaction R54 keeps from the block is refused. -/
theorem receiveSized_refused {td : TD} {n : Nat} {i : Instr} (h : s.fault = none) (hd : decode s.position td = .ok i)
    (hz : td.szc = SizeCode.ofBytes n) (hr : deliverable s.cfg td n = false) :
    s.receiveSized td n = .refused .notDeliverable := by
  unfold State.receiveSized step
  rw [fetch_transaction (s := { s with bus := .transaction td n :: s.bus }) h rfl]
  rw [deliver_notDeliverable (s := { s with bus := s.bus }) hd hz hr]

/-- The same of a transaction of the size its descriptor names. -/
theorem receive_eq_exec {td : TD} {i : Instr} (h : s.fault = none) (hd : decode s.position td = .ok i)
    (hr : deliverable s.cfg td td.szc.bytes = true) : s.receive td = exec i s :=
  receiveSized_eq_exec h hd (SizeCode.ofBytes_bytes _).symm hr

theorem receiveAll_nil : s.receiveAll [] = .next s := rfl

theorem receiveAll_cons {td : TD} {rest : List TD} (h : s.receive td = .next t) :
    s.receiveAll (td :: rest) = t.receiveAll rest := by
  simp only [State.receiveAll]; rw [h]

end Machine

end Sys2Proof
end

