-- ==== Sys2Proof/Tests/Slice0.lean ====
section
/-! SUPPORT. The model's own tests: ill-formed operands are refused, words written out from 30_encoding.md R91 and R97 to R99
decode to the operation they stand for, one step of each operation against 95_test_vectors.md (V, P and E numbers), and a
witness for the hypotheses of each statement. The configuration is the synthetic one of 95_test_vectors.md section 0. -/

namespace Sys2Proof.Tests

open Sys2Proof Sys2Proof.Machine

/-! ### The example configuration and small states -/

/-- `EXAMPLE_BANK_TABLE`. -/
def exampleBanks : Vector BankDescriptor 11 :=
  #v[.mib1 0x000000, .mib1 0x100000, .mib1 0x200000, .mib1 0x300000, .kib512 0x000000, .kib512 0x080000,
    .kib512 0x380000, .kib256 0x000000, .kib256 0x040000, .kib256 0x3C0000, .kib256 0x180000]

/-- `EXAMPLE_CFI`: `0x80` entries, of which `0x20`, `0x22` and `0x24` are not zero. -/
def exampleCfi : CfiTable where
  before := Vector.replicate 32 0
  after := [0, 0x52, 0, 0x59] ++ List.replicate 0x5B 0

/-- The example configuration with a flash image and an overlay image. -/
def exampleConfig (image : List Host.Cell) (overlay : List Byte) : Config where
  bankTable := exampleBanks
  cfiTable := exampleCfi
  flashWindowExtra := 0xFF5555
  flashBase := 0
  ioBase := 0
  bootromBase := 0
  flashInit := image
  bankReset := 0
  ledReset := 0
  recoveryStrap := false
  bootromExtra := 3584
  bootromImage := overlay

/-- The flash image of 95_test_vectors.md section 2.3. -/
def exampleImage : List Host.Cell :=
  [(0x100010, 0xEF), (0x100011, 0xBE), (0x100012, 0xAD), (0x100013, 0xDE), (0x180010, 0x77), (0x1BFFFE, 0x34),
    (0x1BFFFF, 0x12)]

/-- A running state at a position with a bank selected. -/
def at_ (m : Mode) (c : Cycle) (bank : BitVec 4) : State :=
  { State.resetOf (exampleConfig exampleImage []) with mode := m, cycle := c, bank := bank }

/-- What a projection sees of the next state, if there is one. -/
def sees {α : Type} (x : Host.Outcome State Fault Refusal) (f : State → α) : Option α :=
  match x with
  | .next t => some (f t)
  | .fault _ => none
  | .refused _ => none

/-- The refusal, if the outcome is one. -/
def refusal (x : Host.Outcome State Fault Refusal) : Option Refusal :=
  match x with
  | .next _ => none
  | .fault _ => none
  | .refused r => some r

/-- Position and fault record. -/
def whereIs (t : State) : Position × Option FaultKind := (t.position, t.fault)

/-- What is handed back, and the fault record. -/
def back (t : State) : Response × Option FaultKind := (t.response, t.fault)

/-! ### Well-formedness refuses -/

/-- R101: the universal reset is never an ignored write; the same value elsewhere is. -/
theorem test_illFormed_ignored_reset :
    (Instr.fwIgnored 0x00 (.byte 0xF0)).wellFormed = false ∧ (Instr.fwIgnored 0x01 (.byte 0xF0)).wellFormed = true := by
  decide
/-- R31: bits 7:3 of an LED write. -/
theorem test_illFormed_led :
    (Instr.iowLed 0x08).wellFormed = false ∧ (Instr.iowLed 0x07).wellFormed = true ∧
      (Instr.iowLedRsvd 0x07).wellFormed = false ∧ (Instr.iowLedRsvd 0x08).wellFormed = true := by decide
/-- R32: bit 7 of a bank-select write. -/
theorem test_illFormed_bankspi :
    (Instr.iowBankspi 0x80).wellFormed = false ∧ (Instr.iowBankspi 0x7F).wellFormed = true ∧
      (Instr.iowBankspiRsvd 0x7F).wellFormed = false ∧ (Instr.iowBankspiRsvd 0x80).wellFormed = true := by decide
/-- R25: the undefined offsets are 2 to 14. -/
theorem test_illFormed_undefined_offset :
    (Instr.iowUndef 1 0).wellFormed = false ∧ (Instr.iowUndef 2 0).wellFormed = true ∧
      (Instr.iowUndef 14 0).wellFormed = true ∧ (Instr.iowUndef 15 0).wellFormed = false ∧
      (Instr.iorUndef 1).wellFormed = false ∧ (Instr.iorUndef 15).wellFormed = false := by decide
/-- R127, R91: the size is not 1, the offset at most 14, the value of its width, and none on a read. -/
theorem test_illFormed_ioBadsize :
    (Instr.ioBadsize .write .one 0 0).wellFormed = false ∧ (Instr.ioBadsize .write .two 15 0).wellFormed = false ∧
      (Instr.ioBadsize .write .two 0 0x10000).wellFormed = false ∧ (Instr.ioBadsize .read .two 0 1).wellFormed = false ∧
      (Instr.ioBadsize .write .two 14 0xFFFF).wellFormed = true := by decide

/-! ### Decoding: a word of each row, written out digit by digit from R91 and R97 to R99 -/

theorem test_decode_fwBadsize : decode ⟨.writing, .three⟩ 0x700000AAAA000000AA = .ok (.fwBadsize 0xAAAA 0xAA) := by rfl
theorem test_decode_fwProgData :
    decode ⟨.writing, .three⟩ 0x50000400100000BEEF = .ok (.fwProgData 0x40010 (.half 0xBEEF)) := by rfl
theorem test_decode_fwReset : decode ⟨.autoselect, .three⟩ 0x4000000000000000F0 = .ok .fwReset := by rfl
theorem test_decode_fwCfiq : decode ⟨.normal, .one⟩ 0x40000000AA00000098 = .ok .fwCfiq := by rfl
theorem test_decode_fwUnlock1 : decode ⟨.normal, .one⟩ 0x400000AAAA000000AA = .ok .fwUnlock1 := by rfl
theorem test_decode_fwUnlock2 : decode ⟨.normal, .two⟩ 0x400000555500000055 = .ok .fwUnlock2 := by rfl
theorem test_decode_fwEraseSetup : decode ⟨.normal, .three⟩ 0x400000AAAA00000080 = .ok .fwEraseSetup := by rfl
theorem test_decode_fwAutosel : decode ⟨.normal, .three⟩ 0x400000AAAA00000090 = .ok .fwAutosel := by rfl
theorem test_decode_fwProgSetup : decode ⟨.normal, .three⟩ 0x400000AAAA000000A0 = .ok .fwProgSetup := by rfl
theorem test_decode_fwUnlock3 : decode ⟨.normal, .four⟩ 0x400000AAAA000000AA = .ok .fwUnlock3 := by rfl
theorem test_decode_fwUnlock4 : decode ⟨.normal, .five⟩ 0x400000555500000055 = .ok .fwUnlock4 := by rfl
theorem test_decode_fwSectorErase :
    decode ⟨.normal, .six⟩ 0x400001234500000030 = .ok (.fwSectorErase 0x12345) := by rfl
theorem test_decode_fwIgnored : decode ⟨.normal, .three⟩ 0x4000005555000000A0 = .ok (.fwIgnored 0x5555 (.byte 0xA0)) := by
  rfl
theorem test_decode_frBadsize : decode ⟨.queryCFI, .one⟩ 0x300000000400000000 = .ok (.frBadsize 4) := by rfl
theorem test_decode_frArray : decode ⟨.normal, .four⟩ 0x200000001000000000 = .ok (.frArray 0x10 .four) := by rfl
theorem test_decode_frCfi : decode ⟨.queryCFI, .one⟩ 0x100000001000000000 = .ok (.frCfi 0x10 .two) := by rfl
theorem test_decode_frId : decode ⟨.autoselect, .three⟩ 0x000000000200000000 = .ok (.frId 2 .one) := by rfl
theorem test_decode_frBusy : decode ⟨.sectorErase, .one⟩ 0x200000123400000000 = .ok (.frBusy 0x1234 .four) := by rfl
theorem test_decode_iowLed : decode ⟨.normal, .one⟩ 0xC00000000000000005 = .ok (.iowLed 0x05) := by rfl
theorem test_decode_iowLedRsvd : decode ⟨.normal, .one⟩ 0xC0000000000000000F = .ok (.iowLedRsvd 0x0F) := by rfl
theorem test_decode_iowBankspi : decode ⟨.writing, .three⟩ 0xC00000000100000053 = .ok (.iowBankspi 0x53) := by rfl
theorem test_decode_iowBankspiRsvd : decode ⟨.normal, .one⟩ 0xC00000000100000080 = .ok (.iowBankspiRsvd 0x80) := by rfl
theorem test_decode_iowUndef : decode ⟨.normal, .one⟩ 0xC00000000E00000001 = .ok (.iowUndef 14 0x01) := by rfl
theorem test_decode_iorId : decode ⟨.sectorErase, .one⟩ 0x800000000000000000 = .ok .iorId := by rfl
theorem test_decode_iorStatus : decode ⟨.normal, .one⟩ 0x800000000100000000 = .ok .iorStatus := by rfl
theorem test_decode_iorUndef : decode ⟨.normal, .one⟩ 0x800000000200000000 = .ok (.iorUndef 2) := by rfl
theorem test_decode_ioBadsize :
    decode ⟨.normal, .one⟩ 0xD00000000000000105 = .ok (.ioBadsize .write .two 0 0x0105) := by rfl

/-- R97: the offsets and values of the commands are exact, and need their cycle. -/
theorem test_decode_near_misses :
    decode ⟨.normal, .one⟩ 0x400000AAAA00000098 = .ok (.fwIgnored 0xAAAA (.byte 0x98)) ∧
      decode ⟨.normal, .one⟩ 0x40000000AA000000AA = .ok (.fwIgnored 0xAA (.byte 0xAA)) ∧
      decode ⟨.normal, .one⟩ 0x500000AAAA000000AA = .ok (.fwIgnored 0xAAAA (.half 0xAA)) ∧
      decode ⟨.normal, .two⟩ 0x40000000AA00000098 = .ok (.fwIgnored 0xAA (.byte 0x98)) ∧
      decode ⟨.normal, .one⟩ 0x400010AAAA000000AA = .ok (.fwIgnored 0x10AAAA (.byte 0xAA)) :=
  ⟨rfl, rfl, rfl, rfl, rfl⟩

/-- R91: words that are no packing of a transaction. -/
theorem test_decode_rejects :
    decode ⟨.normal, .one⟩ 0x410000AAAA000000AA = .error .reservedBits ∧
      decode ⟨.normal, .one⟩ 0x400000AAAA000001AA = .error .valueWidth ∧
      decode ⟨.normal, .one⟩ 0x000000000000000001 = .error .readValue ∧
      decode ⟨.normal, .one⟩ 0xC00000000F00000000 = .error .ioOffset := ⟨rfl, rfl, rfl, rfl⟩

/-- The table's words, read with no context given (log entry 11). -/
theorem test_decodeTableWord :
    decodeTableWord 72 0x40000000AA00000098 = some .fwCfiq ∧ decodeTableWord 72 0x400000AAAA000000A0 = some .fwProgSetup ∧
      decodeTableWord 72 0x400000000000000030 = some (.fwSectorErase 0) ∧
      decodeTableWord 72 0xC00000000000000000 = some (.iowLed 0) ∧ decodeTableWord 72 0x010000000000000000 = none :=
  ⟨rfl, rfl, rfl, rfl, rfl⟩

/-- The next step of a state with a fetch word is that operation, from the state after reset, whatever the configuration. -/
theorem test_withFetchWord :
    sees (step (State.reset.withFetchWord 72 0x400000AAAA000000AA)) whereIs = some (⟨.normal, .two⟩, none) ∧
      sees (step (State.reset.withFetchWord 72 0x800000000000000000)) back = some (.value (.byte 0x55), none) := ⟨rfl, rfl⟩

/-! ### One step of each operation -/

/-- V49, V70. -/
theorem test_fwBadsize :
    sees ((at_ .writing .three 1).receive 0x700000000000000000) whereIs =
      some (⟨.writing, .three⟩, some .flashAccessSize) ∧
    sees ((at_ .normal .one 1).receive 0x700000AAAA000000AA) whereIs =
      some (⟨.normal, .one⟩, some .flashAccessSize) := by decide +kernel

/-- V63 (the datum), R153's example: little-endian, back to `(Normal, 1)`. -/
theorem test_fwProgData :
    sees ((at_ .writing .three 1).receive 0x500000001000001234)
      (fun t => (t.flashByte 0x100010, t.flashByte 0x100011, t.flashByte 0x100012, whereIs t)) =
      some (0x34, 0x12, 0xAD, ⟨.normal, .one⟩, none) := by decide +kernel

/-- V41, V47, V48: a reset word is a datum; a bad bank or a crossing stores nothing. -/
theorem test_fwProgData_edges :
    sees ((at_ .writing .three 1).receive 0x4000000000000000F0) (fun t => (t.flashByte 0x100000, whereIs t)) =
      some (0xF0, ⟨.normal, .one⟩, none) ∧
    sees ((at_ .writing .three 12).receive 0x400000001000000055) (fun t => (t.flash, whereIs t)) =
      some ([], ⟨.writing, .three⟩, some .bankIndex) ∧
    sees ((at_ .writing .three 10).receive 0x600003FFFE01020304) (fun t => (t.flash, whereIs t)) =
      some ([], ⟨.writing, .three⟩, some .flashSpan) := by decide +kernel

/-- E7 line 6, V39. -/
theorem test_fwReset :
    sees ((at_ .autoselect .three 15).receive 0x4000000000000000F0) whereIs = some (⟨.normal, .one⟩, none) ∧
    sees ((at_ .normal .six 0).receive 0x4000000000000000F0) whereIs = some (⟨.normal, .one⟩, none) := by decide +kernel

/-- R144's example, V35. -/
theorem test_fwCfiq :
    sees ((at_ .normal .one 15).receive 0x40000000AA00000098) whereIs = some (⟨.queryCFI, .one⟩, none) ∧
    sees ((at_ .normal .two 0).receive 0x40000000AA00000098) whereIs = some (⟨.normal, .two⟩, none) := by decide +kernel

/-- V30, V35. -/
theorem test_fwUnlock1 :
    sees ((at_ .normal .one 0).receive 0x400000AAAA000000AA) whereIs = some (⟨.normal, .two⟩, none) ∧
    sees ((at_ .normal .two 0).receive 0x400000AAAA000000AA) whereIs = some (⟨.normal, .two⟩, none) := by decide +kernel

/-- V31, V32. -/
theorem test_fwUnlock2 :
    sees ((at_ .normal .two 0).receive 0x400000555500000055) whereIs = some (⟨.normal, .three⟩, none) ∧
    sees ((at_ .normal .one 0).receive 0x400000555500000055) whereIs = some (⟨.normal, .one⟩, none) := by decide +kernel

/-- V29. -/
theorem test_fwEraseSetup :
    sees ((at_ .normal .three 0).receive 0x400000AAAA00000080) whereIs = some (⟨.normal, .four⟩, none) := by decide +kernel

/-- V29: the cycle stays 3. -/
theorem test_fwAutosel :
    sees ((at_ .normal .three 0).receive 0x400000AAAA00000090) whereIs = some (⟨.autoselect, .three⟩, none) := by
  decide +kernel

/-- V29: the offset must be `0xAAAA`. -/
theorem test_fwProgSetup :
    sees ((at_ .normal .three 0).receive 0x400000AAAA000000A0) whereIs = some (⟨.writing, .three⟩, none) ∧
    sees ((at_ .normal .three 0).receive 0x4000005555000000A0) whereIs = some (⟨.normal, .three⟩, none) := by decide +kernel

/-- V36, V38. -/
theorem test_fwUnlock3 :
    sees ((at_ .normal .four 0).receive 0x400000AAAA000000AA) whereIs = some (⟨.normal, .five⟩, none) ∧
    sees ((at_ .normal .four 0).receive 0x400000AAAA00000055) whereIs = some (⟨.normal, .four⟩, none) := by decide +kernel

/-- V36, V38. -/
theorem test_fwUnlock4 :
    sees ((at_ .normal .five 0).receive 0x400000555500000055) whereIs = some (⟨.normal, .six⟩, none) ∧
    sees ((at_ .normal .five 0).receive 0x400000AAAA000000AA) whereIs = some (⟨.normal, .five⟩, none) := by decide +kernel

/-- V36, V37: only the value is tested, and FLASH is unchanged. -/
theorem test_fwSectorErase :
    sees ((at_ .normal .six 15).receive 0x400001234500000030) (fun t => (t.flash, whereIs t)) =
      some ([], ⟨.sectorErase, .one⟩, none) ∧
    sees ((at_ .normal .six 0).receive 0x400000123400000031) whereIs = some (⟨.normal, .six⟩, none) := by decide +kernel

/-- V33, V34, V39. -/
theorem test_fwIgnored :
    sees ((at_ .normal .one 0).receive 0x600000AAAA000000AA) whereIs = some (⟨.normal, .one⟩, none) ∧
    sees ((at_ .normal .two 0).receive 0x400000123400000099) whereIs = some (⟨.normal, .two⟩, none) ∧
    sees ((at_ .sectorErase .one 0).receive 0x4000000001000000F0) whereIs = some (⟨.sectorErase, .one⟩, none) := by
  decide +kernel

/-- V28, V71: the size is tested before the bank index. -/
theorem test_frBadsize :
    sees ((at_ .normal .one 15).receive 0x300000000000000000) back = some (.nothing, some .flashAccessSize) := by
  decide +kernel

/-- V21, V22, V23. -/
theorem test_frArray :
    sees ((at_ .normal .one 1).receive 0x000000001000000000) back = some (.value (.byte 0xEF), none) ∧
    sees ((at_ .normal .three 1).receive 0x100000001100000000) back = some (.value (.half 0xADBE), none) ∧
    sees ((at_ .normal .one 1).receive 0x2000F0001000000000) back = some (.value (.word 0xDEADBEEF), none) := by
  decide +kernel

/-- V24, V25, V27, V72. -/
theorem test_frArray_edges :
    sees ((at_ .normal .one 10).receive 0x000003FFFF00000000) back = some (.value (.byte 0x12), none) ∧
    sees ((at_ .normal .one 10).receive 0x100003FFFE00000000) back = some (.value (.half 0x1234), none) ∧
    sees ((at_ .normal .one 10).receive 0x200007FFFD00000000) back = some (.nothing, some .flashSpan) ∧
    sees ((at_ .normal .one 11).receive 0x000000000000000000) back = some (.nothing, some .bankIndex) ∧
    sees ((at_ .normal .one 15).receive 0x200003FFFE00000000) back = some (.nothing, some .bankIndex) := by decide +kernel

/-- V50, V51, V52, V54, V55, V58. -/
theorem test_frCfi :
    sees ((at_ .queryCFI .one 15).receive 0x000000002000000000) back = some (.value (.byte 0x51), none) ∧
    sees ((at_ .queryCFI .one 0).receive 0x100000005000000000) back = some (.value (.half 0x0051), none) ∧
    sees ((at_ .queryCFI .one 0).receive 0x200000001000000000) back = some (.value (.word 0x51), none) ∧
    sees ((at_ .queryCFI .one 0).receive 0x100000001200000000) back = some (.value (.half 0x0059), none) ∧
    sees ((at_ .queryCFI .one 0).receive 0x000010002000000000) back = some (.value (.byte 0x51), none) := by decide +kernel

/-- V56: twice the offset is not cut to 32 bits. -/
theorem test_cfiIndex_is_not_truncated :
    cfiIndex { exampleCfi with after := List.replicate 0x3F 0 } 0x80000010 .two = 0 := by decide +kernel

/-- V57, V58. -/
theorem test_frId :
    sees ((at_ .autoselect .three 15).receive 0x000000000200000000) back = some (.value (.byte 0xC4), none) ∧
    sees ((at_ .autoselect .three 0).receive 0x200000000000000000) back = some (.value (.word 0x01), none) ∧
    sees ((at_ .autoselect .three 0).receive 0x000004000200000000) back = some (.value (.byte 0x00), none) := by
  decide +kernel

/-- V60, V61, V62. -/
theorem test_frBusy :
    sees ((at_ .writing .three 1).receive 0x000000001000000000) (fun t => (t.position, back t)) =
      some (⟨.writing, .three⟩, .value (.byte 0), none) ∧
    sees ((at_ .sectorErase .one 15).receive 0x200000123400000000) back = some (.value (.word 0), none) := by decide +kernel

/-- V10, V11. -/
theorem test_iowLed :
    sees ((at_ .writing .three 0).receive 0xC00000000000000005) (fun t => (t.led, whereIs t)) =
      some (5, ⟨.writing, .three⟩, none) ∧
    sees ((at_ .normal .one 0).receive 0xC00000000000000007) (fun t => (t.led, t.fault)) = some (7, none) := by
  decide +kernel

/-- V12. -/
theorem test_iowLedRsvd :
    sees ({ at_ .normal .one 0 with led := 5 }.receive 0xC00000000000000008) (fun t => (t.led, t.fault)) =
      some (5, some .ledReservedBits) := by decide +kernel

/-- V13, V14. -/
theorem test_iowBankspi :
    sees ((at_ .normal .one 0).receive 0xC00000000100000023) (fun t => (t.bank, [t.mosi, t.cs, t.sck], t.fault)) =
      some (3, [false, true, false], none) ∧
    sees ((at_ .normal .one 0).receive 0xC0000000010000007A) (fun t => (t.bank, [t.mosi, t.cs, t.sck], t.fault)) =
      some (10, [true, true, true], none) := by decide +kernel

/-- V15. -/
theorem test_iowBankspiRsvd :
    sees ((at_ .normal .one 2).receive 0xC00000000100000080) (fun t => (t.bank, t.fault)) =
      some (2, some .bankSpiReservedBit) := by decide +kernel

/-- V18. -/
theorem test_iowUndef :
    sees ((at_ .normal .one 2).receive 0xC000000005000000FF) (fun t => (t.bank, t.led, t.fault)) = some (2, 0, none) := by
  decide +kernel

/-- V10. -/
theorem test_iorId :
    sees ({ at_ .sectorErase .one 0 with led := 5 }.receive 0x800000000000000000) back =
      some (.value (.byte 0x55), none) := by decide +kernel

/-- V17. -/
theorem test_iorStatus :
    sees ({ at_ .normal .one 2 with recovery := true, miso1 := true }.receive 0x800000000100000000) back =
      some (.value (.byte 0xA2), none) ∧
    sees ({ at_ .normal .one 2 with miso4 := true, sck := true, cs := true }.receive 0x800000000100000000) back =
      some (.value (.byte 0x12), none) := by decide +kernel

/-- V18. -/
theorem test_iorUndef :
    sees ((at_ .normal .one 2).receive 0x800000000E00000000) back = some (.value (.byte 0), none) := by decide +kernel

/-- V19, V73: the size is tested before the reserved bits. -/
theorem test_ioBadsize :
    sees ((at_ .normal .one 2).receive 0xD0000000000000FFFF) (fun t => (t.led, back t)) =
      some (0, .nothing, some .ioAccessSize) ∧
    sees ((at_ .normal .one 2).receive 0x900000000700000000) back = some (.nothing, some .ioAccessSize) := by decide +kernel

/-! ### Translation, the host's other interactions, and refusals -/

/-- V2, V3, V5, V6, V7, V9. -/
theorem test_translate :
    translate 0x123456 (.mib1 0x100000) = 0x123456 ∧ translate 0x0FFFFF (.mib1 0x300000) = 0x3FFFFF ∧
      translate 0xFFFF0000 (.kib512 0x080000) = 0x0F0000 ∧ translate 0xAAAA (.kib256 0x3C0000) = 0x3CAAAA ∧
      translate 0x45678 (.kib256 0x180000) = 0x185678 ∧ translate 0x45678 (.mib1 0x0C0000) = 0x0C5678 := by decide +kernel

/-- V17's `InjectStatus(1, 1, 0)`, and the pins after V13 (R41). -/
theorem test_host_actions :
    sees (step { at_ .normal .one 2 with bus := [.action (.injectStatus true true false)] })
      (fun t => (t.recovery, t.miso1, t.miso4, t.bank)) = some (true, true, false, 2) ∧
    sees (step { at_ .normal .one 3 with cs := true, bus := [.action .observePins] }) back =
      some (.pins ⟨0, false, true, false⟩, none) := by decide +kernel

/-- An overlay of a whole image, `image[i] = i mod 256`, as 95_test_vectors.md section 2.9. -/
def withOverlay (e : HostEvent) : State :=
  { at_ .normal .one 0 with
    overlay := { extra := 3584, image := (List.range 512).map (BitVec.ofNat 8) }, bus := [e] }

/-- Section 2.9. -/
theorem test_overlay :
    sees (step (withOverlay (.action (.overlayRead 0xEFF .one)))) back = some (.value (.byte 0xFF), none) ∧
    sees (step (withOverlay (.action (.overlayRead 0xFFC .four)))) back = some (.value (.word 0xFFFEFDFC), none) ∧
    sees (step (withOverlay (.action (.overlayRead 0xDFF .one)))) back = some (.value (.byte 0), none) := by decide +kernel

/-- R54: refused, not answered; R192: outside the overlay's window. -/
theorem test_refusals :
    refusal ((at_ .normal .one 0).receive 0x100100000000000000) = some .notDeliverable ∧
    refusal ((at_ .normal .one 0).receive 0x1000FFFFFF00000000) = some .notDeliverable ∧
    refusal ((at_ .normal .one 0).receive 0x800000000F00000000) = some .notDeliverable ∧
    refusal ((at_ .normal .one 0).receive 0x410000000000000000) = some (.malformedDescriptor .reservedBits) ∧
    refusal (step (withOverlay (.action (.overlayRead 0xFFD .four)))) = some .outsideOverlay := by decide +kernel

/-- R54 for the sizes that are none of 1, 2, 4: the last byte must lie inside the window of `0x1000000`, and the offset
must even for a size of 0. -/
theorem test_flash_window_of_other_sizes :
    sees ((at_ .normal .one 0).receiveSized 0x3000FFFFF800000000 8) back = some (.nothing, some .flashAccessSize) ∧
    refusal ((at_ .normal .one 0).receiveSized 0x3000FFFFF900000000 8) = some .notDeliverable ∧
    sees ((at_ .normal .one 0).receiveSized 0x3000FFFFFD00000000 3) back = some (.nothing, some .flashAccessSize) ∧
    refusal ((at_ .normal .one 0).receiveSized 0x7000FFFFFE00000000 3) = some .notDeliverable ∧
    sees ((at_ .normal .one 0).receiveSized 0x3000FFFFFF00000000 0) back = some (.nothing, some .flashAccessSize) ∧
    refusal ((at_ .normal .one 0).receiveSized 0x300100000000000000 0) = some .notDeliverable := by decide +kernel
/-- R91: the size code 3 is that of no accepted size. -/
theorem test_wrongSizeCode :
    refusal ((at_ .normal .one 0).receiveSized 0x300000000000000000 4) = some .wrongSizeCode ∧
    refusal ((at_ .normal .one 0).receiveSized 0x200000000000000000 8) = some .wrongSizeCode := by decide +kernel

/-! ### Witnesses: for each statement with hypotheses, values that meet them together, clause by clause -/

/-- One operation of each row with a position that selects it. -/
def oneOfEach : List (Instr × Position) :=
  [(.fwBadsize 0xFFFFFFFF 0xFFFFFFFF, ⟨.writing, .three⟩), (.fwProgData 0xFFFFFFFF (.word 0xFFFFFFFF), ⟨.writing, .three⟩),
    (.fwReset, ⟨.sectorErase, .one⟩), (.fwCfiq, ⟨.normal, .one⟩), (.fwUnlock1, ⟨.normal, .one⟩),
    (.fwUnlock2, ⟨.normal, .two⟩), (.fwEraseSetup, ⟨.normal, .three⟩), (.fwAutosel, ⟨.normal, .three⟩),
    (.fwProgSetup, ⟨.normal, .three⟩), (.fwUnlock3, ⟨.normal, .four⟩), (.fwUnlock4, ⟨.normal, .five⟩),
    (.fwSectorErase 0xFFFFFFFF, ⟨.normal, .six⟩), (.fwIgnored 0 (.half 0xF0), ⟨.normal, .one⟩)] ++
  [(.frBadsize 0, ⟨.autoselect, .three⟩), (.frArray 0xFFFFFFFF .four, ⟨.normal, .six⟩), (.frCfi 0x20 .one, ⟨.queryCFI, .one⟩),
    (.frId 2 .two, ⟨.autoselect, .three⟩), (.frBusy 0 .four, ⟨.writing, .three⟩), (.iowLed 0x07, ⟨.normal, .one⟩),
    (.iowLedRsvd 0xFF, ⟨.normal, .one⟩), (.iowBankspi 0x7F, ⟨.writing, .three⟩), (.iowBankspiRsvd 0x80, ⟨.normal, .one⟩),
    (.iowUndef 14 0xFF, ⟨.normal, .one⟩), (.iorId, ⟨.queryCFI, .one⟩), (.iorStatus, ⟨.normal, .one⟩),
    (.iorUndef 2, ⟨.normal, .one⟩), (.ioBadsize .write .two 14 0xFFFF, ⟨.normal, .one⟩)]

theorem test_witness_EncodedOperationDecodesBack :
    oneOfEach.length = 27 ∧ oneOfEach.all (fun p => p.1.wellFormed && p.1.selectedIn p.2) = true := by decide +kernel
theorem test_witness_DecodedOperationEncodesBack :
    decode ⟨.normal, .six⟩ 0x40FFFFFFFF00000030 = .ok (.fwSectorErase 0xFFFFFFFF) := by rfl
theorem test_witness_EveryTransactionSelectsExactlyOneRow :
    SizeCode.two.holds 0xFFFF = true ∧ (Dir.write = .read → (0xFFFF : BitVec 32) = 0) ∧
      (Region.io = .io → (14 : Offset).toNat ≤ 14) := by decide
theorem test_witness_WordsOutsideThePackingAreRejected :
    TD.zeros 0x410000000000000000 ≠ 0 ∧
    (TD.zeros 0x300000000000000001 = 0 ∧ TD.dir 0x300000000000000001 = .read ∧ TD.value 0x300000000000000001 ≠ 0) ∧
    (TD.dir 0xC00000000F00000000 = .write ∧ TD.region 0xC00000000F00000000 = .io ∧
      14 < (TD.offset 0xC00000000F00000000).toNat) ∧
    (TD.dir 0x800000000F00000000 = .read ∧ TD.value 0x800000000F00000000 = 0 ∧
      14 < (TD.offset 0x800000000F00000000).toNat) ∧
    (TD.dir 0xC00000000E00000100 = .write ∧ (TD.offset 0xC00000000E00000100).toNat ≤ 14 ∧
      (TD.szc 0xC00000000E00000100).holds (TD.value 0xC00000000E00000100) = false) := by decide +kernel

/-- A state with a transaction pending. -/
def pending (s : State) (td : TD) : State := { s with bus := [.transaction td td.szc.bytes] }

theorem test_witness_StepRunsTheDecodedOperation :
    (pending (at_ .normal .one 1) 0x2000FFFFFC00000000).fault = none ∧
    (pending (at_ .normal .one 1) 0x2000FFFFFC00000000).bus = .transaction 0x2000FFFFFC00000000 4 :: [] ∧
    decode (pending (at_ .normal .one 1) 0x2000FFFFFC00000000).position 0x2000FFFFFC00000000 = .ok (.frArray 0xFFFFFC .four) ∧
    TD.szc 0x2000FFFFFC00000000 = SizeCode.ofBytes 4 ∧
    deliverable (at_ .normal .one 1).cfg 0x2000FFFFFC00000000 4 = true := ⟨rfl, rfl, rfl, rfl, by decide +kernel⟩
theorem test_witness_StepWithNothingIssuedChangesNothing :
    (at_ .writing .three 12).fault = none ∧ (at_ .writing .three 12).bus = [] := ⟨rfl, rfl⟩
theorem test_witness_NoInteractionHasAMeaningAfterAFault :
    ((at_ .normal .three 15).raise .bankIndex).fault = some .bankIndex := rfl
/-- An 8-byte access may start at `0xFFFFF8` at the latest, in the example's window of `0x1000000`. -/
theorem test_witness_UndeliverableTransactionsAreRefused :
    (at_ .normal .one 0).fault = none ∧
    (TD.region 0x3000FFFFF900000000 = .flash ∧ TD.region 0x800000000E00000000 = .io) ∧
    (at_ .normal .one 0).cfg.flashWindowSize < (0xFFFFF9 : Offset).toNat + 8 ∧
    (at_ .normal .one 0).cfg.flashWindowSize < (0xFFFFFF : Offset).toNat + (Datum.half 0).size.bytes ∧
    (at_ .normal .one 0).cfg.flashWindowSize < (0xFFFFFD : Offset).toNat + Size.four.bytes ∧
    (at_ .normal .one 0).cfg.flashWindowSize ≤ (0x1000000 : Offset).toNat ∧ 14 < (15 : Offset).toNat := by decide +kernel
theorem test_witness_StepKeepsTheInvariant :
    (pending (at_ .writing .three 1) 0x400000001000000055).Inv ∧
    isNext (step (pending (at_ .writing .three 1) 0x400000001000000055)) = true :=
  ⟨⟨rfl, rfl, by decide⟩, by decide +kernel⟩
theorem test_witness_NoStepWritesTheConfiguration :
    isNext (step (pending (at_ .normal .one 0) 0xC00000000100000003)) = true := by decide +kernel
theorem test_witness_ConfigurationAdmitsExactlyTheConstraints :
    (List.replicate 32 (0 : Byte) ++ [0x51])[0x20]? = some 0x51 ∧ 0x300000 + 0x100000 ≤ 0x400000 ∧
      (0xAAAB ≤ 2 ^ 32 ∧ 2 ^ 32 ≤ 2 ^ 32) := by decide
theorem test_witness_EveryOperationCompletesInARunningState : (at_ .writing .three 15).fault = none := rfl
theorem test_witness_FaultingTransactionChangesOnlyTheFaultRecord :
    sees (exec (.fwProgData 0x3FFFE (.word 0x01020304)) (at_ .writing .three 10)) State.fault =
      some (some .flashSpan) := by decide +kernel
/-- A cause of each kind, on both sides of its boundary. -/
theorem test_witness_FaultsAreRaisedInExactlyTheirCauses :
    sees (exec (.fwBadsize 0 0) (at_ .normal .one 0)) State.fault = some (some .flashAccessSize) ∧
    sees (exec (.iowLed 0x08) (at_ .normal .one 0)) State.fault = some (some .ledReservedBits) ∧
    sees (exec (.iowBankspi 0x80) (at_ .normal .one 0)) State.fault = some (some .bankSpiReservedBit) ∧
    sees (exec (.frArray 0 .one) (at_ .normal .one 11)) State.fault = some (some .bankIndex) ∧
    sees (exec (.frArray 0x3FFFD .four) (at_ .normal .one 10)) State.fault = some (some .flashSpan) ∧
    sees (exec (.frArray 0x3FFFC .four) (at_ .normal .one 10)) State.fault = some none ∧
    sees (exec (.ioBadsize .read .four 14 0) (at_ .normal .one 0)) State.fault = some (some .ioAccessSize) := by
  decide +kernel
theorem test_witness_FaultCausesHaveTheirPriority :
    (at_ .normal .one 11).fault = none ∧ (at_ .writing .three 11).fault = none ∧
    (at_ .normal .one 11).cfg.inFlashWindow (0xFFFFF8 : Offset).toNat 8 = true ∧ 10 < (at_ .normal .one 11).bank.toNat ∧
    (at_ .normal .one 11).mode = .normal ∧ (at_ .writing .three 11).mode = .writing ∧
    (at_ .normal .one 11).cfg.inFlashWindow (0x3FFFE : Offset).toNat Size.four.bytes = true ∧
    (at_ .writing .three 11).cfg.inFlashWindow (0x3FFFE : Offset).toNat (Datum.word 0).size.bytes = true ∧
    (SizeCode.ofBytes 2).holds 0xFFFF = true ∧ (14 : Offset).toNat ≤ 14 := by decide +kernel
theorem test_witness_CycleAdvancesByOneOrReturnsToOne :
    sees (step (pending (at_ .normal .five 0) 0x400000555500000055)) State.cycle = some .six ∧
    sees (step (pending (at_ .normal .five 0) 0x4000000000000000F0)) State.cycle = some .one ∧
    sees (exec (.fwProgData 0 (.byte 0)) (at_ .writing .three 0)) State.fault = some none ∧
    (Instr.fwProgData 0 (.byte 0)).isTerminal ∧
    isNext (exec .fwUnlock4 (at_ .normal .five 0)) = true ∧ Instr.fwUnlock4.isStep ∧
    Instr.fwUnlock4.selectedIn (at_ .normal .five 0).position = true :=
  ⟨by decide +kernel, by decide +kernel, by decide +kernel, Or.inr (Or.inl ⟨_, _, rfl⟩), rfl,
    Or.inr (Or.inr (Or.inr (Or.inr rfl))), rfl⟩

/-- A write of each size class, and of the second clause an I/O write. -/
theorem test_witness_FlashWritesFollowTheListing :
    TD.region 0x600003FFFE01020304 = .flash ∧ TD.dir 0x600003FFFE01020304 = .write ∧
    decode (at_ .writing .three 10).position 0x600003FFFE01020304 = .ok (.fwProgData 0x3FFFE (.word 0x01020304)) ∧
    Listing.stands (TD.szc 0x600003FFFE01020304) 4 ∧ Listing.stands (TD.szc 0x700000000000000000) 8 ∧
    Instr.ofIoWindow (.iowLed 0x07) = true ∧ isNext (exec (.iowLed 0x07) (at_ .writing .three 10)) = true :=
  ⟨by decide, by decide, rfl, rfl, ⟨by decide, by decide, by decide⟩, rfl, by decide +kernel⟩
theorem test_witness_FlashReadsFollowTheListing :
    TD.region 0x100000001000000000 = .flash ∧ TD.dir 0x100000001000000000 = .read ∧
    decode (at_ .queryCFI .one 15).position 0x100000001000000000 = .ok (.frCfi 0x10 .two) ∧
    Listing.stands (TD.szc 0x100000001000000000) 2 := ⟨by decide, by decide, rfl, rfl⟩
theorem test_witness_RegisterBlockFollowsTheListing :
    TD.region 0xC0000000010000007F = .io ∧ TD.dir 0xC0000000010000007F = .write ∧
    decode (at_ .writing .three 15).position 0xC0000000010000007F = .ok (.iowBankspi 0x7F) ∧
    Listing.stands (TD.szc 0xC0000000010000007F) 1 ∧
    decode (at_ .writing .three 15).position 0x800000000E00000000 = .ok (.iorUndef 14) ∧
    TD.dir 0x800000000E00000000 = .read := ⟨by decide, by decide, rfl, rfl, rfl, by decide⟩

/-- `fw1 0x100000, 0xF0` is one of the writes that are no reset. -/
theorem test_witness_UniversalResetReturnsToNormalCycleOne :
    (at_ .sectorErase .one 15).fault = none ∧ (at_ .sectorErase .one 15).mode ≠ .writing ∧
    (at_ .sectorErase .one 15).mode ≠ .normal ∧ (0x100000 : Offset) ≠ 0x00 ∧
    (at_ .sectorErase .one 15).cfg.inFlashWindow (0x100000 : Offset).toNat 1 = true ∧
    ((at_ .writing .three 10).mode = .writing ∧ (at_ .writing .three 10).selectedBank = some (.kib256 0x180000)) := by
  decide +kernel
theorem test_witness_HoldModesIgnoreEveryWriteButTheReset :
    (at_ .queryCFI .one 0).fault = none ∧ (at_ .queryCFI .one 0).mode = .queryCFI ∧ (0x01 : Offset) ≠ 0x00 ∧
    (at_ .queryCFI .one 0).cfg.inFlashWindow (0x01 : Offset).toNat (Datum.byte 0xF0).size.bytes = true := by decide +kernel
theorem test_witness_CfiQueryEntersQueryCfi :
    (at_ .normal .one 0).fault = none ∧ (at_ .normal .one 0).position = ⟨.normal, .one⟩ ∧
    ((at_ .normal .two 0).mode = .normal ∧ (at_ .normal .two 0).cycle ≠ .one) ∧
    ((at_ .queryCFI .one 0).mode = .queryCFI ∧ isNext (exec (.frCfi 0 .one) (at_ .queryCFI .one 0)) = true) := by
  decide +kernel
theorem test_witness_FirstAndThirdUnlockStepsAdvance :
    (at_ .normal .one 0).position = ⟨.normal, .one⟩ ∧ (at_ .normal .four 0).position = ⟨.normal, .four⟩ ∧
    ((at_ .normal .five 0).mode = .normal ∧ (at_ .normal .five 0).cycle ≠ .one ∧ (at_ .normal .five 0).cycle ≠ .four) ∧
    ((Datum.byte 0xAB) ≠ .byte 0xAA ∧
      (at_ .normal .four 0).cfg.inFlashWindow (0xAAAA : Offset).toNat (Datum.byte 0xAB).size.bytes = true) := by
  decide +kernel
theorem test_witness_SecondAndFourthUnlockStepsAdvance :
    (at_ .normal .two 0).position = ⟨.normal, .two⟩ ∧ (at_ .normal .five 0).position = ⟨.normal, .five⟩ ∧
    ((at_ .normal .six 0).mode = .normal ∧ (at_ .normal .six 0).cycle ≠ .two ∧ (at_ .normal .six 0).cycle ≠ .five) ∧
    ((0x5554 : Offset) ≠ 0x5555 ∧
      (at_ .normal .two 0).cfg.inFlashWindow (0x5554 : Offset).toNat (Datum.byte 0x55).size.bytes = true) := by
  decide +kernel
theorem test_witness_EraseSetupAdvancesToCycleFour :
    (at_ .normal .three 0).position = ⟨.normal, .three⟩ ∧
    ((at_ .normal .four 0).mode = .normal ∧ (at_ .normal .four 0).cycle ≠ .three) := by decide +kernel
theorem test_witness_AutoselectCommandEntersAutoselect :
    (at_ .normal .three 15).position = ⟨.normal, .three⟩ ∧
    ((at_ .normal .two 0).mode = .normal ∧ (at_ .normal .two 0).cycle ≠ .three) ∧
    ((at_ .autoselect .three 0).mode = .autoselect ∧
      isNext (exec (.fwIgnored 0xAAAA (.byte 0xAA)) (at_ .autoselect .three 0)) = true) := by decide +kernel
theorem test_witness_ProgramSetupEntersWriting :
    (at_ .normal .three 0).position = ⟨.normal, .three⟩ ∧ (0xAAA9 : Offset) ≠ 0xAAAA ∧
    (at_ .normal .three 0).cfg.inFlashWindow (0xAAA9 : Offset).toNat 1 = true ∧
    ((at_ .normal .four 0).mode = .normal ∧ (at_ .normal .four 0).cycle ≠ .three) ∧
    ((at_ .writing .three 0).mode = .writing ∧ Instr.reads (.frBusy 0 .one) = true ∧
      isNext (exec (.frBusy 0 .one) (at_ .writing .three 0)) = true) := by decide +kernel
theorem test_witness_SectorEraseIsAcceptedAndErasesNothing :
    (at_ .normal .six 15).position = ⟨.normal, .six⟩ ∧
    (at_ .normal .six 15).cfg.inFlashWindow (0xFFFFFF : Offset).toNat 1 = true ∧ Datum.half 0x30 ≠ .byte 0x30 ∧
    Datum.half 0x30 ≠ .byte 0xF0 ∧
    (at_ .normal .six 15).cfg.inFlashWindow (0xFFFFFE : Offset).toNat (Datum.half 0x30).size.bytes = true := by
  decide +kernel
/-- The last word of the window, and one byte further. -/
theorem test_witness_ProgramDatumIsStored :
    (at_ .writing .three 3).fault = none ∧ (at_ .writing .three 3).mode = .writing ∧
    (at_ .writing .three 3).cfg.inFlashWindow (0xFFFFC : Offset).toNat (Datum.word 1).size.bytes = true ∧
    10 < (at_ .writing .three 11).bank.toNat ∧ (at_ .writing .three 3).selectedBank = some (.mib1 0x300000) ∧
    (BankDescriptor.mib1 0x300000).size <
      (0xFFFFD : Offset).toNat % (BankDescriptor.mib1 0x300000).size + (Datum.word 1).size.bytes ∧
    (0xFFFFC : Offset).toNat % (BankDescriptor.mib1 0x300000).size + (Datum.word 1).size.bytes ≤
      (BankDescriptor.mib1 0x300000).size ∧
    (0x1FFFFC : Offset).toNat % (BankDescriptor.mib1 0x300000).size =
      (0xFFFFC : Offset).toNat % (BankDescriptor.mib1 0x300000).size := by decide +kernel
theorem test_witness_UnmatchedWritesAreIgnored :
    (at_ .normal .six 0).mode ≠ .writing ∧ (Datum.half 0x30).size ≠ .one ∧
    (at_ .normal .six 0).cfg.inFlashWindow (0 : Offset).toNat (Datum.half 0x30).size.bytes = true ∧
    ((at_ .normal .six 0).mode = .normal ∧
      ∀ r ∈ commandRows, r.cycle = (at_ .normal .six 0).cycle → r.value = 0x31 →
        r.offset ≠ some 0x1234 ∧ r.offset ≠ none) ∧
    ((at_ .autoselect .three 0).mode ≠ .writing ∧ (at_ .autoselect .three 0).mode ≠ .normal) := by decide +kernel
theorem test_witness_UnsupportedFlashSizesFault :
    (at_ .writing .three 15).fault = none ∧
    (at_ .writing .three 15).cfg.inFlashWindow (0xFFFFF8 : Offset).toNat 8 = true := by decide +kernel

/-- Bank 3's last word, its last word but one byte further, and a mirror. -/
theorem test_witness_ArrayReadReturnsTheStoredBytes :
    (at_ .normal .six 3).fault = none ∧ (at_ .normal .six 3).mode = .normal ∧
    (at_ .normal .six 3).cfg.inFlashWindow (0xFFFFC : Offset).toNat Size.four.bytes = true ∧
    10 < (at_ .normal .one 11).bank.toNat ∧ (at_ .normal .six 3).selectedBank = some (.mib1 0x300000) ∧
    (BankDescriptor.mib1 0x300000).size <
      (0xFFFFD : Offset).toNat % (BankDescriptor.mib1 0x300000).size + Size.four.bytes ∧
    (0xFFFFE : Offset).toNat % (BankDescriptor.mib1 0x300000).size + 2 ≤ (BankDescriptor.mib1 0x300000).size ∧
    (0xFFFFC : Offset).toNat % (BankDescriptor.mib1 0x300000).size + 4 ≤ (BankDescriptor.mib1 0x300000).size ∧
    (0x1FFFFC : Offset).toNat % (BankDescriptor.mib1 0x300000).size =
      (0xFFFFC : Offset).toNat % (BankDescriptor.mib1 0x300000).size := by decide +kernel
theorem test_witness_CfiReadReturnsOneTableEntry :
    (at_ .queryCFI .one 15).fault = none ∧ (at_ .queryCFI .one 15).mode = .queryCFI ∧
    (at_ .queryCFI .one 15).cfg.inFlashWindow (0x10 : Offset).toNat Size.four.bytes = true ∧
    (0x20 : Offset).toNat = 2 * (0x10 : Offset).toNat ∧
    sees (exec (.frCfi 0x20 .one) (at_ .queryCFI .one 15)) State.response = some (.value (.byte 0x51)) := by decide +kernel
theorem test_witness_AutoselectReadReturnsTheIdentificationBytes :
    (at_ .autoselect .three 15).fault = none ∧ (at_ .autoselect .three 15).mode = .autoselect ∧
    (0xC4 : Byte) = (if (2 : Offset) = 0 then 0x01 else if (2 : Offset) = 2 then 0xC4 else 0x00) ∧
    (at_ .autoselect .three 15).cfg.inFlashWindow (2 : Offset).toNat Size.two.bytes = true := by decide +kernel
theorem test_witness_BusyReadReturnsZero :
    (at_ .sectorErase .one 15).fault = none ∧ (at_ .sectorErase .one 15).mode = .sectorErase ∧
    (at_ .sectorErase .one 15).cfg.inFlashWindow (0xFFFFFC : Offset).toNat Size.four.bytes = true := by decide +kernel
theorem test_witness_ReadsChangeNoState :
    Instr.reads (.frArray 0 .one) = true ∧ isNext (exec (.frArray 0 .one) (at_ .normal .three 15)) = true := by
  decide +kernel

theorem test_witness_LedWriteSetsTheLedBits :
    (at_ .normal .one 0).fault = none ∧ (0x07 : Byte).toNat < 8 ∧ 8 ≤ (0x08 : Byte).toNat := by decide
theorem test_witness_BankSpiWriteSetsFourFields :
    (at_ .normal .one 0).fault = none ∧ (0x7F : Byte).toNat < 0x80 ∧ 0x80 ≤ (0x80 : Byte).toNat := by decide
theorem test_witness_UndefinedIoOffsetsAreNoOps :
    (at_ .normal .one 0).fault = none ∧ (2 ≤ (2 : Offset).toNat ∧ (2 : Offset).toNat ≤ 14) ∧
      (2 ≤ (14 : Offset).toNat ∧ (14 : Offset).toNat ≤ 14) := by decide
theorem test_witness_IdReadReturnsTheSentinel : (at_ .writing .three 15).fault = none := rfl
theorem test_witness_StatusReadComposesTheStatusByte : (at_ .sectorErase .one 15).fault = none := rfl
theorem test_witness_WideIoAccessesFault :
    (at_ .normal .one 0).fault = none ∧ (SizeCode.ofBytes 2).holds 0xFFFF = true ∧
      (Dir.write = .read → (0xFFFF : BitVec 32) = 0) ∧ (14 : Offset).toNat ≤ 14 := by decide
theorem test_witness_RegistersAndSequencerAreIndependent :
    (Instr.ofIoWindow (.iowLed 5) = true ∧
      sees (exec (.iowLed 5) (at_ .normal .two 0)) State.led = some 5 ∧ (5 : BitVec 3) ≠ (at_ .normal .two 0).led) ∧
    (Instr.ofIoWindow .fwUnlock2 = false ∧ isNext (exec .fwUnlock2 (at_ .normal .two 0)) = true) ∧
    (sees (exec (.iowBankspi 3) (at_ .normal .two 0)) State.bank = some 3 ∧
      (3 : BitVec 4) ≠ (at_ .normal .two 0).bank) := by decide +kernel
/-- `ior 1 -> 0x8A` of 70_reset_and_hazards.md's hazard, and `0x12` where recovery is 0. -/
theorem test_witness_WritingBackTheStatusByteFaultsUnderRecovery :
    sees (exec .iorStatus { at_ .normal .one 10 with recovery := true }) State.response = some (.value (.byte 0x8A)) ∧
    sees (exec .iorStatus { at_ .normal .one 2 with miso4 := true }) State.response = some (.value (.byte 0x12)) := by
  decide +kernel

theorem test_witness_TranslationStaysInTheBankAndRepeats :
    (BankDescriptor.kib256 0x180000).offset % (BankDescriptor.kib256 0x180000).size = 0 ∧
    0x3FFFF < (BankDescriptor.kib256 0x180000).size ∧
    translate 0x3FFFF (.kib256 0x180000) = translate 0x3FFFF (.kib256 0x180000) := by decide
/-- An aligned last word, and a misaligned one that crosses, read and programmed; with an unusable bank too. -/
theorem test_witness_AlignedAccessesNeverSpan :
    (at_ .normal .one 10).selectedBank = some (.kib256 0x180000) ∧
    isNext (exec (.frArray 0x3FFFC .four) (at_ .normal .one 10)) = true ∧ (0x3FFFC : Offset).toNat % Size.four.bytes = 0 ∧
    isNext (exec (.frArray 0x3FFFD .four) (at_ .normal .one 10)) = true ∧
    (at_ .writing .three 10).selectedBank = some (.kib256 0x180000) ∧
    sees (exec (.fwProgData 0x3FFFC (.word 1)) (at_ .writing .three 10)) State.fault = some none ∧
    (0x3FFFC : Offset).toNat % (Datum.word 1).size.bytes = 0 ∧
    sees (exec (.fwProgData 0x3FFFD (.word 1)) (at_ .writing .three 10)) State.fault = some (some .flashSpan) ∧
    sees (exec (.fwProgData 0x3FFFC (.word 1)) (at_ .writing .three 11)) State.fault = some (some .bankIndex) := by
  decide +kernel
theorem test_witness_AlignedAccessesNeverSpan_others :
    (∀ o n, Instr.frCfi 0x3FFFD .four ≠ .frArray o n) ∧ (∀ o d, Instr.frCfi 0x3FFFD .four ≠ .fwProgData o d) ∧
    isNext (exec (.frCfi 0x3FFFD .four) (at_ .queryCFI .one 10)) = true :=
  ⟨fun _ _ => Instr.noConfusion, fun _ _ => Instr.noConfusion, by decide +kernel⟩
/-- R58's example. -/
theorem test_witness_MemReadReturnsWhatMemWriteStored :
    0x44332211 < 2 ^ (8 * 4) ∧ ((at_ .normal .one 0).memWrite 0x3FFFFC 4 0x44332211).memRead 0x3FFFFE 2 = 0x4433 := by
  decide +kernel
theorem test_witness_OnlyAProgramCommitChangesFlash :
    sees (step (pending (at_ .writing .three 1) 0x400000001000000055)) (fun t => t.flashByte 0x100010) = some 0x55 ∧
    (pending (at_ .writing .three 1) 0x400000001000000055).flashByte 0x100010 = 0xEF := by decide +kernel
theorem test_witness_OperationsThatStoreNothingLeaveEveryByte :
    (∀ o d, Instr.fwSectorErase 0x12345 ≠ .fwProgData o d) ∧
    isNext (exec (.fwSectorErase 0x12345) (at_ .normal .six 1)) = true := ⟨fun _ _ => Instr.noConfusion, rfl⟩
/-- V46: a switch to bank 2 before the datum. -/
theorem test_witness_BankIsSampledWhenTheDatumArrives :
    (at_ .writing .three 0).fault = none ∧ (at_ .writing .three 0).mode = .writing ∧ (0x02 : Byte).toNat < 0x80 ∧
    (at_ .writing .three 0).cfg.bankTable[(0x02 : Byte).toNat % 16]? = some (.mib1 0x200000) ∧
    (0x30 : Offset).toNat % (BankDescriptor.mib1 0x200000).size + (Datum.byte 0x99).size.bytes ≤
      (BankDescriptor.mib1 0x200000).size ∧
    (at_ .writing .three 0).cfg.inFlashWindow (0x30 : Offset).toNat (Datum.byte 0x99).size.bytes = true := by decide +kernel
theorem test_witness_EraseSequenceEndsInSectorErase :
    (at_ .normal .one 15).fault = none ∧ (at_ .normal .one 15).position = ⟨.normal, .one⟩ ∧
    (at_ .normal .one 15).cfg.inFlashWindow (0x12345 : Offset).toNat 1 = true := by decide +kernel
/-- V43: an offset beyond the window of bank 7. -/
theorem test_witness_ProgramRoundTrip :
    (at_ .normal .one 7).fault = none ∧ (at_ .normal .one 7).position = ⟨.normal, .one⟩ ∧
    (at_ .normal .one 7).selectedBank = some (.kib256 0x000000) ∧
    (0x100024 : Offset).toNat % (BankDescriptor.kib256 0x000000).size + (Datum.word 0x11223344).size.bytes ≤
      (BankDescriptor.kib256 0x000000).size ∧
    (at_ .normal .one 7).cfg.inFlashWindow (0x100024 : Offset).toNat (Datum.word 0x11223344).size.bytes = true := by
  decide +kernel
theorem test_witness_ResetWritesReachNormalCycleOne :
    (at_ .writing .three 1).fault = none ∧ (at_ .writing .three 1).selectedBank = some (.mib1 0x100000) ∧
    (at_ .writing .three 1).mode = .writing ∧ (at_ .sectorErase .one 1).mode ≠ .writing := by decide +kernel
theorem test_witness_HostDrivesAndObservesThePins :
    ({ at_ .normal .one 2 with bus := [.action .observePins] } : State).fault = none ∧
    ({ at_ .normal .one 2 with bus := [.action (.injectStatus true true false)] } : State).bus =
      .action (.injectStatus true true false) :: [] := ⟨rfl, rfl⟩
theorem test_witness_OverlayReadsItsImageAndIgnoresWrites :
    (withOverlay (.action (.overlayRead 0xFFC .four))).fault = none ∧
    (withOverlay (.action (.overlayRead 0xFFC .four))).overlay.image.length ≤ 512 ∧
    (withOverlay (.action (.overlayRead 0xFFC .four))).bus = .action (.overlayRead 0xFFC .four) :: [] ∧
    0xFFC + 4 ≤ 512 + (withOverlay (.action (.overlayRead 0xFFC .four))).overlay.extra ∧
    0xFFE + 2 ≤ 512 + (withOverlay (.action (.overlayRead 0xFFC .four))).overlay.extra ∧
    0xFFF < 512 + (withOverlay (.action (.overlayRead 0xFFC .four))).overlay.extra ∧
    0xDFF < 512 + (withOverlay (.action (.overlayRead 0xFFC .four))).overlay.extra -
      (withOverlay (.action (.overlayRead 0xFFC .four))).overlay.image.length := by decide +kernel

end Sys2Proof.Tests
end

/-! ### Settling the family 00_scope.md

What one operation can make of a running state is said once (`Effect`, `exec_effect`); the frame of O15 is read off it. -/

namespace Sys2Proof.Machine

variable {s t : State}

/-- What one operation makes of a running state: a fault, a value handed back, nothing, a position, one of the two
register writes, or a program commit inside the store (R205, R171, R154, R9, R31, R32, R153). -/
inductive Effect (s : State) : State → Prop where
  | raise (k : FaultKind) : Effect s (s.raise k)
  | answer (d : Datum) : Effect s (s.answer d)
  | ignore : Effect s s.finish
  | move (m : Mode) (c : Cycle) : Effect s (s.moveTo m c).finish
  | led (v : Byte) : Effect s (s.setLed v).finish
  | bankSpi (v : Byte) : Effect s (s.setBankSpi v).finish
  | commit (p n v : Nat) (inStore : p + n ≤ flashSize) :
      Effect s ((s.memWrite p n v).moveTo .normal .one).finish

/-- A translating access faults or has the effect of the access (R62, R63). -/
theorem Effect.translating {l n : Nat} {f : Nat → State} (hf : ∀ p, p + n ≤ flashSize → Effect s (f p)) :
    Effect s (withTranslation s l n f) := by
  obtain ⟨-, h⟩ | ⟨b, -, -, h⟩ | ⟨b, -, -, hfit, h⟩ := withTranslation_cases s l n f <;> rw [h]
  · exact .raise .bankIndex
  · exact .raise .flashSpan
  · exact hf _ hfit

/-- A register write with reserved bits faults or has the effect of the write (R31, R32). -/
theorem Effect.raiseOr {p : Prop} [Decidable p] {k : FaultKind} (h : Effect s t) :
    Effect s (if p then s.raise k else t) := by
  split
  · exact .raise k
  · exact h

/-- No effect touches the configuration, the overlay or the pending interactions (R40). -/
theorem Effect.sameSurroundings (h : Effect s t) : s.sameSurroundings t := by
  cases h <;> simp [State.sameSurroundings]

/-- Behind the gate an effect is taken as the next state. -/
theorem Effect.completes (h : s.fault = none) (he : Effect s t) :
    ∃ t', whenRunning s (.next t) = .next t' ∧ Effect s t' :=
  ⟨t, whenRunning_running h, he⟩

/-- In a running state every operation completes with an effect (R12). -/
theorem exec_effect (i : Instr) (h : s.fault = none) : ∃ t, exec i s = .next t ∧ Effect s t := by
  cases i with
  | fwBadsize | frBadsize | iowLedRsvd | iowBankspiRsvd | ioBadsize => exact Effect.completes h (.raise _)
  | fwReset | fwCfiq | fwUnlock1 | fwUnlock2 | fwEraseSetup | fwAutosel | fwProgSetup | fwUnlock3 | fwUnlock4
  | fwSectorErase => exact Effect.completes h (.move _ _)
  | fwIgnored | iowUndef => exact Effect.completes h .ignore
  | frCfi | frId | frBusy | iorId | iorStatus | iorUndef => exact Effect.completes h (.answer _)
  | frArray => exact Effect.completes h (.translating fun _ _ => .answer _)
  | fwProgData => exact Effect.completes h (.translating fun p hp => .commit p _ _ hp)
  | iowLed => exact Effect.completes h (.raiseOr (.led _))
  | iowBankspi => exact Effect.completes h (.raiseOr (.bankSpi _))

/-- Settles O15: an operation has one of the effects, and no effect touches the surroundings. -/
theorem everyOperationCompletesInARunningState : Obligations.EveryOperationCompletesInARunningState := by
  intro i s h
  obtain ⟨t, ht, he⟩ := exec_effect i h
  exact ⟨t, ht, he.sameSurroundings⟩

/-- Settles O6: the step takes the transaction, and delivering it finds the decoded operation. -/
theorem stepRunsTheDecodedOperation : Obligations.StepRunsTheDecodedOperation := by
  intro s td n rest i h hb hd hz hr
  have hf : fetch s = .instr i { s with bus := rest } := by
    rw [fetch_transaction h hb]
    exact deliver_instr hd hz hr
  unfold step
  rw [hf]

end Sys2Proof.Machine

namespace Sys2Proof

/-! ### The configuration types (R7, R34, R35) -/

/-- A bank descriptor is a window size with a start that leaves the window inside 4 MiB (R34). -/
theorem BankDescriptor.exists_iff (off size : Nat) :
    (∃ b : BankDescriptor, b.offset = off ∧ b.size = size) ↔
      (size = 0x100000 ∨ size = 0x80000 ∨ size = 0x40000) ∧ off + size ≤ 0x400000 := by
  constructor
  · rintro ⟨b, rfl, rfl⟩
    exact ⟨by cases b <;> simp [BankDescriptor.size], b.fits⟩
  · rintro ⟨rfl | rfl | rfl, hfit⟩
    · exact ⟨.mib1 ⟨off, by omega⟩, rfl, rfl⟩
    · exact ⟨.kib512 ⟨off, by omega⟩, rfl, rfl⟩
    · exact ⟨.kib256 ⟨off, by omega⟩, rfl, rfl⟩

/-- The flash window sizes of the configurations are those R7 allows. -/
theorem Config.exists_flashWindowSize_iff (w : Nat) :
    (∃ cfg : Config, cfg.flashWindowSize = w) ↔ 0xAAAB ≤ w ∧ w ≤ 2 ^ 32 := by
  constructor
  · rintro ⟨cfg, rfl⟩
    have := cfg.flashWindowExtra.isLt
    simp only [Config.flashWindowSize, flashWindowMin]
    omega
  · rintro ⟨hmin, hmax⟩
    exact ⟨{ (default : Config) with flashWindowExtra := ⟨w - 0xAAAB, by omega⟩ }, Nat.add_sub_cancel' hmin⟩

/-- The CFI table of a byte list: its entries before `0x20` and those after it. -/
def CfiTable.ofBytes (bytes : List Byte) : CfiTable where
  before := Vector.ofFn fun i => bytes.getD i 0
  after := bytes.drop 0x21

theorem CfiTable.length_ofBytes {bytes : List Byte} (h : 0x20 < bytes.length) :
    (CfiTable.ofBytes bytes).length = bytes.length := by
  simp only [CfiTable.length, CfiTable.ofBytes, List.length_drop]
  omega

/-- A byte list with `0x51` at `0x20` is the table made of it, entry by entry (R35). -/
theorem CfiTable.entry_ofBytes {bytes : List Byte} (h : bytes[0x20]? = some 0x51) {i : Nat} (hi : i < bytes.length) :
    some ((CfiTable.ofBytes bytes).entry i) = bytes[i]? := by
  obtain hlt | rfl | hgt := Nat.lt_trichotomy i 0x20
  · simp [CfiTable.entry, CfiTable.ofBytes, hlt, hi]
  · exact h.symm
  · have hidx : 0x21 + (i - 0x21) = i := by omega
    simp [CfiTable.entry, CfiTable.ofBytes, show ¬ i < 0x20 by omega, show i ≠ 0x20 by omega, hidx, hi]

/-- Settles O14, one lemma for each of the three types. -/
theorem configurationAdmitsExactlyTheConstraints : Obligations.ConfigurationAdmitsExactlyTheConstraints := by
  refine ⟨fun off size => (BankDescriptor.exists_iff off size).symm,
    fun w => (Config.exists_flashWindowSize_iff w).symm, fun t => ⟨?_, rfl⟩, fun bytes h => ?_⟩
  · simp only [CfiTable.length]
    omega
  · have hlen : 0x20 < bytes.length := (List.getElem?_eq_some_iff.mp h).1
    exact ⟨CfiTable.ofBytes bytes, CfiTable.length_ofBytes hlen, fun _ hi => CfiTable.entry_ofBytes h hi⟩

end Sys2Proof

/-! ### Settling the family 10_state.md

What decoding selects (`decode_selectedIn`), what one operation does to the sequencer and to FLASH (`Executed`,
`exec_executed`) and what a step can be (`step_cases`) are said once; the statements about steps are read off them. -/

namespace Sys2Proof

/-! ### A decoded operation is one its context selects (R100, R101) -/

/-- A command of the cycle parser is a row of `(Normal, k)` (R97). -/
theorem parseCommand_selectedIn {k : Cycle} {o : Offset} {v : Byte} {i : Instr} (h : parseCommand k o v = some i) :
    i.selectedIn ⟨.normal, k⟩ = true := by
  cases k <;> simp only [parseCommand] at h
  all_goals
    split_ifs at h <;> cases h
    all_goals rfl

/-- The cycle parser leaves no row of R97. -/
theorem parseCommand_ne_none_of_admits {r : CommandRow} (hr : r ∈ commandRows) {k : Cycle} {o : Offset} {v : Byte}
    (h : r.admits k o (.byte v) = true) : parseCommand k o v ≠ none := by
  simp only [CommandRow.admits, Bool.and_eq_true, Bool.or_eq_true, decide_eq_true_eq, Datum.byte.injEq] at h
  obtain ⟨⟨rfl, ho⟩, rfl⟩ := h
  simp only [commandRows, List.mem_cons, List.not_mem_nil, or_false] at hr
  rcases hr with rfl | rfl | rfl | rfl | rfl | rfl | rfl | rfl | rfl <;> simp_all [parseCommand]

/-- A row of R97 admits one-byte data only. -/
theorem CommandRow.admits_size {r : CommandRow} {k : Cycle} {o : Offset} {d : Datum} (h : r.admits k o d = true) :
    d.size = .one := by
  simp only [CommandRow.admits, Bool.and_eq_true, decide_eq_true_eq] at h
  rw [h.2]
  rfl

/-- An ignored write is one outside `Writing` that no row of R97 admits. -/
theorem fwIgnored_selectedIn {c : Position} {o : Offset} {d : Datum} (hw : c.mode ≠ .writing)
    (hr : c.mode = .normal → commandRows.any (fun r => r.admits c.cycle o d) = false) :
    (Instr.fwIgnored o d).selectedIn c = true := by
  simp only [Instr.selectedIn, Bool.and_eq_true, Bool.not_eq_true', Bool.and_eq_false_iff, decide_eq_true_eq,
    decide_eq_false_iff_not]
  exact ⟨hw, or_iff_not_imp_left.mpr fun h => hr (not_not.mp h)⟩

theorem selectFlashWrite_selectedIn (c : Position) (o : Offset) (d : Datum) :
    (selectFlashWrite c o d).selectedIn c = true := by
  obtain ⟨m, k⟩ := c
  unfold selectFlashWrite
  split_ifs with hw _ hn
  · simpa [Instr.selectedIn] using hw
  · simpa [Instr.selectedIn] using hw
  · exact fwIgnored_selectedIn hw fun h => absurd h hn
  · obtain rfl : m = .normal := not_not.mp hn
    cases d with
    | byte v =>
      cases hp : parseCommand k o v with
      | none =>
        simpa [hp] using fwIgnored_selectedIn hw fun _ =>
          List.any_eq_false.mpr fun _ hr h => parseCommand_ne_none_of_admits hr h hp
      | some i => simpa [hp] using parseCommand_selectedIn hp
    | half | word =>
      exact fwIgnored_selectedIn hw fun _ =>
        List.any_eq_false.mpr fun _ _ h => absurd (CommandRow.admits_size h) (by simp [Datum.size])

theorem decodeFlashWrite_selectedIn {c : Position} {z : SizeCode} {o : Offset} {v : BitVec 32} {i : Instr}
    (h : decodeFlashWrite c z o v = .ok i) : i.selectedIn c = true := by
  unfold decodeFlashWrite at h
  split at h
  · cases h
    rfl
  · split_ifs at h
    cases h
    exact selectFlashWrite_selectedIn c o _

theorem decodeFlashRead_selectedIn (c : Position) (z : SizeCode) (o : Offset) :
    (decodeFlashRead c.mode z o).selectedIn c = true := by
  obtain ⟨m, k⟩ := c
  unfold decodeFlashRead
  split
  · rfl
  · cases m <;> rfl

/-- The rows of the I/O window are selected in every context (R98). -/
theorem decodeIo_selectedIn (c : Position) (dir : Dir) (z : SizeCode) (o : Offset) (v : BitVec 32) :
    (decodeIo dir z o v).selectedIn c = true := by
  unfold decodeIo
  split_ifs
  · cases dir with
    | write => simp only [selectIoWrite]; split_ifs <;> rfl
    | read => simp only [selectIoRead]; split_ifs <;> rfl
  · rfl

/-- The row a descriptor decodes to is one its context selects, format by format. -/
theorem decode_selectedIn {c : Position} {td : TD} {i : Instr} (h : decode c td = .ok i) :
    i.selectedIn c = true := by
  unfold decode at h
  split at h; · cases h
  split at h; · cases h
  split at h
  · split at h
    · exact decodeFlashWrite_selectedIn h
    · cases h
      exact decodeFlashRead_selectedIn c _ _
  · split_ifs at h
    cases h
    exact decodeIo_selectedIn c _ _ _ _

/-! ### Where an operation leads the sequencer (R22 to R24) -/

/-- The position an operation leaves when it does not fault. -/
def Instr.nextPosition (i : Instr) (c : Position) : Position :=
  match i with
  | .fwProgData _ _ | .fwReset => ⟨.normal, .one⟩
  | .fwCfiq => ⟨.queryCFI, c.cycle⟩
  | .fwUnlock1 => ⟨c.mode, .two⟩
  | .fwUnlock2 => ⟨c.mode, .three⟩
  | .fwEraseSetup => ⟨c.mode, .four⟩
  | .fwAutosel => ⟨.autoselect, c.cycle⟩
  | .fwProgSetup => ⟨.writing, c.cycle⟩
  | .fwUnlock3 => ⟨c.mode, .five⟩
  | .fwUnlock4 => ⟨c.mode, .six⟩
  | .fwSectorErase _ => ⟨.sectorErase, .one⟩
  | _ => c

/-- A selected operation leads from a reachable position to a reachable one (R24). -/
theorem Instr.nextPosition_reachable {i : Instr} {c : Position} (hc : c.reachable = true)
    (hi : i.selectedIn c = true) : (i.nextPosition c).reachable = true := by
  cases i with
  | fwProgData | fwReset | fwSectorErase => rfl
  | fwCfiq | fwUnlock1 | fwUnlock2 | fwEraseSetup | fwAutosel | fwProgSetup | fwUnlock3 | fwUnlock4 =>
    obtain rfl := of_decide_eq_true hi
    rfl
  | _ => exact hc

/-- A selected step of a sequence stays in `Normal` and advances the cycle by one. -/
theorem Instr.nextPosition_of_isStep {i : Instr} {c : Position} (hs : i.isStep) (hi : i.selectedIn c = true) :
    c.mode = .normal ∧ (i.nextPosition c).mode = .normal ∧
      (i.nextPosition c).cycle.toNat = c.cycle.toNat + 1 := by
  obtain rfl | rfl | rfl | rfl | rfl := hs <;> obtain rfl := of_decide_eq_true hi <;> exact ⟨rfl, rfl, rfl⟩

theorem Instr.nextPosition_cycle_of_isTerminal {i : Instr} (c : Position) (ht : i.isTerminal) :
    (i.nextPosition c).cycle = .one := by
  obtain rfl | ⟨o, d, rfl⟩ | ⟨o, rfl⟩ := ht <;> rfl

/-- Only the steps of a sequence and the terminal actions lead to another cycle. -/
theorem Instr.isStep_or_isTerminal {i : Instr} {c : Position} (h : (i.nextPosition c).cycle ≠ c.cycle) :
    i.isStep ∨ i.isTerminal := by
  cases i with
  | fwUnlock1 | fwUnlock2 | fwEraseSetup | fwUnlock3 | fwUnlock4 => exact Or.inl (by simp [Instr.isStep])
  | fwProgData | fwReset | fwSectorErase => exact Or.inr (by simp [Instr.isTerminal])
  | _ => exact absurd rfl h

namespace Machine

variable {s t : State} {i : Instr}

/-! ### What an operation does to the sequencer and to FLASH -/

/-- What executing an operation makes of a running state, as far as the sequencer and FLASH see it: a fault, which no
step of a sequence raises, a program commit, or a move of the sequencer that stores nothing. -/
inductive Executed (s : State) (i : Instr) : State → Prop where
  | faults (k : FaultKind) (notStep : ¬ i.isStep) : Executed s i (s.raise k)
  | commits (o : Offset) (d : Datum) (b : BankDescriptor) (prog : i = .fwProgData o d)
      (bank : s.selectedBank = some b) (fits : translate o.toNat b + d.size.bytes ≤ flashSize) :
      Executed s i ((s.memWrite (translate o.toNat b) d.size.bytes d.toNat).moveTo .normal .one).finish
  | moves (t : State) (position : t.position = i.nextPosition s.position) (flash : t.flash = s.flash) :
      Executed s i t

/-- What completes behind the gate found a running state. -/
theorem Executed.ofGate {u : State} (h : whenRunning s (.next u) = .next t) (hu : Executed s i u) :
    s.fault = none ∧ Executed s i t := by
  obtain ⟨hf, he⟩ := whenRunning_eq_next.mp h
  cases he
  exact ⟨hf, hu⟩

/-- A register write with reserved bits faults or has the result of the write (R31, R32). -/
theorem Executed.raiseOr {p : Prop} [Decidable p] {k : FaultKind} (hi : ¬ i.isStep) (h : Executed s i t) :
    Executed s i (if p then s.raise k else t) := by
  split
  · exact .faults k hi
  · exact h

/-- A translating access faults or has the result of the access in the selected bank (R62, R63). -/
theorem Executed.translating {l n : Nat} {f : Nat → State} (hi : ¬ i.isStep)
    (hf : ∀ b, s.selectedBank = some b → translate l b + n ≤ flashSize → Executed s i (f (translate l b))) :
    Executed s i (withTranslation s l n f) := by
  obtain ⟨-, h⟩ | ⟨b, -, -, h⟩ | ⟨b, hb, -, hfit, h⟩ := withTranslation_cases s l n f <;> rw [h]
  · exact .faults .bankIndex hi
  · exact .faults .flashSpan hi
  · exact hf b hb hfit

/-- An operation completes in a running state only, with one of the three results. -/
theorem exec_executed (h : exec i s = .next t) : s.fault = none ∧ Executed s i t := by
  cases i with
  | fwBadsize | frBadsize | iowLedRsvd | iowBankspiRsvd | ioBadsize =>
    exact Executed.ofGate h (.faults _ (by simp [Instr.isStep]))
  | fwProgData o d =>
    exact Executed.ofGate h (.translating (by simp [Instr.isStep]) fun b hb hfit => .commits o d b rfl hb hfit)
  | frArray => exact Executed.ofGate h (.translating (by simp [Instr.isStep]) fun _ _ _ => .moves _ rfl rfl)
  | iowLed | iowBankspi => exact Executed.ofGate h (.raiseOr (by simp [Instr.isStep]) (.moves _ rfl rfl))
  | _ => exact Executed.ofGate h (.moves _ rfl rfl)

/-- No operation touches the configuration, the overlay or the pending interactions (R40). -/
theorem exec_sameSurroundings (h : exec i s = .next t) : s.sameSurroundings t := by
  obtain ⟨t', ht', hsame⟩ := everyOperationCompletesInARunningState i s (exec_executed h).1
  cases h.symm.trans ht'
  exact hsame

/-- An operation that does not fault leads where its row leads. -/
theorem Executed.position_or_raise (h : Executed s i t) :
    t.position = i.nextPosition s.position ∨ ¬ i.isStep ∧ ∃ k, t = s.raise k := by
  cases h with
  | faults k notStep => exact Or.inr ⟨notStep, k, rfl⟩
  | commits o d b prog => subst prog; exact Or.inl rfl
  | moves _ position => exact Or.inl position

/-- A selected operation keeps the position reachable (R24), whether or not it faults. -/
theorem Executed.reachable (h : Executed s i t) (hi : i.selectedIn s.position = true)
    (hs : s.position.reachable = true) : t.position.reachable = true := by
  obtain hpos | ⟨-, k, rfl⟩ := h.position_or_raise
  · rw [hpos]
    exact Instr.nextPosition_reachable hs hi
  · exact hs

/-- Every operation keeps the flash store canonical (R33): a commit lies inside the store (R63). -/
theorem Executed.wf (h : Executed s i t) (hs : Memory.wf s.cfg s.flash = true) : Memory.wf s.cfg t.flash = true := by
  cases h with
  | faults => exact hs
  | commits o d b _ _ fits => exact wf_memWrite d.toNat fits hs
  | moves _ _ flash => rwa [flash]

/-- A byte of FLASH changes only where a program datum is committed. -/
theorem Executed.flashByte_changed {a : Nat} (h : Executed s i t) (hcfg : t.cfg = s.cfg)
    (ha : t.flashByte a ≠ s.flashByte a) :
    ∃ o d b, i = .fwProgData o d ∧ s.selectedBank = some b ∧
      translate o.toNat b ≤ a ∧ a < translate o.toNat b + d.size.bytes := by
  cases h with
  | faults => exact absurd (flashByte_congr hcfg rfl a) ha
  | moves _ _ flash => exact absurd (flashByte_congr hcfg flash a) ha
  | commits o d b prog bank =>
    refine ⟨o, d, b, prog, bank, ?_⟩
    by_contra hout
    exact ha ((flashByte_memWrite s _ _ _ a).trans (if_neg hout))

/-- Settles O52: a byte that changed was a program datum's. -/
theorem operationsThatStoreNothingLeaveEveryByte : Obligations.OperationsThatStoreNothingLeaveEveryByte := by
  intro i s t hi h
  have hsame := exec_sameSurroundings h
  refine ⟨fun a => ?_, hsame⟩
  by_contra ha
  obtain ⟨o, d, b, prog, -⟩ := (exec_executed h).2.flashByte_changed hsame.1 ha
  exact hi o d prog

/-! ### What a step can be (R218, R219) -/

/-- The host's other interactions leave the sequencer, FLASH and the surroundings alone (R193, R218). -/
theorem hostAction_frame {a : HostAction} (h : hostAction a s = .next t) :
    t.position = s.position ∧ t.flash = s.flash ∧ s.sameSurroundings t := by
  cases a with
  | injectStatus | observePins | overlayWrite =>
    cases (whenRunning_eq_next.mp h).2
    exact ⟨rfl, rfl, rfl, rfl, rfl⟩
  | overlayRead o z =>
    have hread := (whenRunning_eq_next.mp h).2
    split at hread
    · cases hread
    · split_ifs at hread
      cases hread
      exact ⟨rfl, rfl, rfl, rfl, rfl⟩

theorem step_action {a : HostAction} {rest : List HostEvent} (hf : s.fault = none) (hb : s.bus = .action a :: rest) :
    step s = hostAction a { s with bus := rest } := by
  unfold step
  rw [fetch_action hf hb]

/-- A completed step is idle, or takes the oldest interaction and does what it means. -/
theorem step_cases (h : step s = .next t) :
    (s.bus = [] ∧ t = s) ∨
    (∃ a rest, s.bus = .action a :: rest ∧ hostAction a { s with bus := rest } = .next t) ∨
    (∃ td n rest i, s.bus = .transaction td n :: rest ∧ decode s.position td = .ok i ∧
      exec i { s with bus := rest } = .next t) := by
  obtain hf | ⟨k, hf⟩ := Option.eq_none_or_eq_some s.fault
  · rcases hb : s.bus with _ | ⟨⟨td, n⟩ | a, rest⟩
    · rw [step, fetch_idle hf hb] at h
      cases h
      exact Or.inl ⟨rfl, rfl⟩
    · rw [step, fetch_transaction hf hb] at h
      obtain ⟨_, -, hd⟩ | ⟨i, hi, ⟨-, hd⟩ | ⟨-, -, hd⟩ | ⟨-, -, hd⟩⟩ :=
          deliver_cases { s with bus := rest } td n <;>
        rw [hd] at h
      · cases h
      · cases h
      · cases h
      · exact Or.inr (Or.inr ⟨td, n, rest, i, rfl, hi, h⟩)
    · exact Or.inr (Or.inl ⟨a, rest, rfl, (step_action hf hb).symm.trans h⟩)
  · rw [step, fetch_ended hf] at h
    cases h

/-- Settles O12: no operation and no interaction of the host touches what its step does not take. -/
theorem noStepWritesTheConfiguration : Obligations.NoStepWritesTheConfiguration := by
  intro s t h
  obtain ⟨hb, rfl⟩ | ⟨a, rest, hb, ha⟩ | ⟨td, n, rest, i, hb, -, hx⟩ := step_cases h <;> rw [hb]
  · exact ⟨rfl, rfl, rfl⟩
  · exact (hostAction_frame ha).2.2
  · exact exec_sameSurroundings hx

/-- Settles O10: a selected operation keeps the position reachable and the store canonical, and no other step touches
them; the overlay is never written. -/
theorem stepKeepsTheInvariant : Obligations.StepKeepsTheInvariant := by
  rintro s t ⟨hpos, hwf, himage⟩ h
  obtain ⟨hcfg, hoverlay, -⟩ := noStepWritesTheConfiguration s t h
  unfold State.Inv
  rw [hcfg, hoverlay]
  obtain ⟨-, rfl⟩ | ⟨a, rest, -, ha⟩ | ⟨td, n, rest, i, -, hd, hx⟩ := step_cases h
  · exact ⟨hpos, hwf, himage⟩
  · obtain ⟨hsame, hflash, -⟩ := hostAction_frame ha
    rw [hsame, hflash]
    exact ⟨hpos, hwf, himage⟩
  · have he := (exec_executed hx).2
    exact ⟨he.reachable (decode_selectedIn hd) hpos, he.wf hwf, himage⟩

/-- Settles O19: the cycle changes where the decoded operation leads to another one, and a fault keeps it. -/
theorem cycleAdvancesByOneOrReturnsToOne : Obligations.CycleAdvancesByOneOrReturnsToOne := by
  refine ⟨rfl, fun s t h hne => ?_, fun i s t h hi hf => ?_, fun i s t h hi hsel => ?_⟩
  · obtain ⟨-, rfl⟩ | ⟨a, rest, -, ha⟩ | ⟨td, n, rest, i, hb, hd, hx⟩ := step_cases h
    · exact absurd rfl hne
    · exact absurd (congrArg Position.cycle (hostAction_frame ha).1) hne
    · refine ⟨td, n, rest, i, hb, hd, ?_⟩
      obtain hpos | ⟨-, k, rfl⟩ := (exec_executed hx).2.position_or_raise
      · have hmode : t.mode = (i.nextPosition s.position).mode := congrArg Position.mode hpos
        have hcycle : t.cycle = (i.nextPosition s.position).cycle := congrArg Position.cycle hpos
        rw [hmode, hcycle]
        obtain hi | hi := Instr.isStep_or_isTerminal (hcycle ▸ hne)
        · exact Or.inl ⟨hi, Instr.nextPosition_of_isStep hi (decode_selectedIn hd)⟩
        · exact Or.inr ⟨hi, Instr.nextPosition_cycle_of_isTerminal _ hi⟩
      · exact absurd rfl hne
  · obtain hpos | ⟨-, k, rfl⟩ := (exec_executed h).2.position_or_raise
    · exact (congrArg Position.cycle hpos).trans (Instr.nextPosition_cycle_of_isTerminal _ hi)
    · cases hf
  · obtain hpos | ⟨hn, -⟩ := (exec_executed h).2.position_or_raise
    · have hcycle : t.cycle = (i.nextPosition s.position).cycle := congrArg Position.cycle hpos
      rw [hcycle]
      exact (Instr.nextPosition_of_isStep hi hsel).2.2
    · exact absurd hi hn

/-- Settles O51: only a transaction changes a byte, and the operation it decodes to is a commit there. -/
theorem onlyAProgramCommitChangesFlash : Obligations.OnlyAProgramCommitChangesFlash := by
  intro s t a h ha
  have hcfg := (noStepWritesTheConfiguration s t h).1
  obtain ⟨-, rfl⟩ | ⟨x, rest, -, hx⟩ | ⟨td, n, rest, i, hb, hd, hx⟩ := step_cases h
  · exact absurd rfl ha
  · exact absurd (flashByte_congr hcfg (hostAction_frame hx).2.1 a) ha
  · obtain ⟨o, d, b, rfl, hbank, hrange⟩ := (exec_executed hx).2.flashByte_changed hcfg ha
    exact ⟨of_decide_eq_true (decode_selectedIn hd), td, n, rest, o, d, b, hb, hd, hbank, hrange⟩

/-- Settles O57: the step takes the interaction, and its meaning names the fields it sets. -/
theorem hostDrivesAndObservesThePins : Obligations.HostDrivesAndObservesThePins := by
  intro s rest hf
  have gate (x) : whenRunning { s with bus := rest } x = x := whenRunning_running hf
  exact ⟨fun _ _ _ hb => (step_action hf hb).trans (gate _), fun hb => (step_action hf hb).trans (gate _)⟩

end Machine

end Sys2Proof

/-! ### Settling the family 20_memory.md

What the descriptors of the two regions decode to (R101), the arithmetic of the translator (R60, R61, R64), when a
translating access spans (R63), and MemRead over MemWrite (R56 to R58), each said once. -/

namespace Sys2Proof

/-! ### What a packed transaction decodes to (R91, R101) -/

@[simp] theorem Size.size?_code (n : Size) : n.code.size? = some n := by cases n <;> rfl

@[simp] theorem Size.ofBytes_bytes (n : Size) : SizeCode.ofBytes n.bytes = n.code := by cases n <;> rfl

/-- A datum fits the size code of its size (R67). -/
@[simp] theorem Datum.holds_field (d : Datum) : d.size.code.holds d.field = true := by
  cases d with
  | byte v | half v =>
    have := v.isLt
    simp only [SizeCode.holds, Datum.size, Size.code, Datum.field, BitVec.toNat_setWidth, decide_eq_true_eq]
    omega
  | word v => rfl

/-- The value field of a datum holds the datum (R91). -/
@[simp] theorem Datum.datum_field (d : Datum) : d.size.datum d.field = d := by
  cases d <;> simp [Datum.size, Size.datum, Datum.field]

theorem decode_flash_write (c : Position) (z : SizeCode) (o : Offset) (v : BitVec 32) :
    decode c (pack .flash .write z o v) = decodeFlashWrite c z o v := by
  simp [decode]

theorem decode_flash_read (c : Position) (z : SizeCode) (o : Offset) :
    decode c (pack .flash .read z o 0) = .ok (decodeFlashRead c.mode z o) := by
  simp [decode]

/-- An I/O offset above 14 is no transaction of the block, whatever else the descriptor holds (R54). -/
theorem decode_io_outside {c : Position} {dir : Dir} {z : SizeCode} {o : Offset} {v : BitVec 32}
    (hv : dir = .read → v = 0) (ho : 14 < o.toNat) : decode c (pack .io dir z o v) = .error .ioOffset := by
  have hread : ¬ (dir = .read ∧ v ≠ 0) := fun h => h.2 (hv h.1)
  have hout : ioWindowSize ≤ o.toNat := ho
  simp only [decode, pack_zeros, pack_dir, pack_value, pack_region, pack_offset, ne_eq, not_true_eq_false, if_false,
    if_neg hread, if_pos hout]

namespace Machine

theorem decode_fw (c : Position) (o : Offset) (d : Datum) : decode c (fw o d) = .ok (selectFlashWrite c o d) := by
  simp [fw, decode_flash_write, decodeFlashWrite]

theorem decode_fr (c : Position) (o : Offset) (n : Size) : decode c (fr n o) = .ok (selectFlashRead c.mode o n) := by
  rw [fr, decode_flash_read, decodeFlashRead, Size.size?_code]

theorem decode_iow_one (c : Position) (v : Byte) :
    decode c (iow 1 v) = .ok (if v.getLsbD 7 then .iowBankspiRsvd v else .iowBankspi v) := by
  have hv := v.isLt
  have hholds : SizeCode.one.holds (v.setWidth 32) = true := by
    simp only [SizeCode.holds, BitVec.toNat_setWidth, decide_eq_true_eq]
    omega
  simp [decode, iow, hholds, decodeIo, selectIoWrite, ioWindowSize]

end Machine

/-! ### The translator (R60, R61, R64) -/

theorem BankDescriptor.exists_size_eq_two_pow (b : BankDescriptor) : ∃ k, b.size = 2 ^ k := by
  cases b with
  | mib1 => exact ⟨20, rfl⟩
  | kib512 => exact ⟨19, rfl⟩
  | kib256 => exact ⟨18, rfl⟩

theorem mod_size_lt (l : Nat) (b : BankDescriptor) : l % b.size < b.size := Nat.mod_lt l b.size_pos

/-- Translation stays in the bank's slice: OR is at least its operand and at most the sum. -/
theorem translate_mem_slice (l : Nat) (b : BankDescriptor) :
    b.offset ≤ translate l b ∧ translate l b < b.offset + b.size := by
  have hsum : translate l b ≤ l % b.size + b.offset := or_le_add _ _
  have hlt := mod_size_lt l b
  exact ⟨Nat.right_le_or, by omega⟩

/-- Logical offsets that differ by the bank's size are mirrors. -/
theorem translate_add_size (l : Nat) (b : BankDescriptor) : translate (l + b.size) b = translate l b := by
  simp [translate]

/-- In an aligned bank OR is addition, as the offset has no bit below the size. -/
theorem translate_of_aligned {b : BankDescriptor} (h : b.offset % b.size = 0) (l : Nat) :
    translate l b = b.offset + l % b.size := by
  obtain ⟨k, hk⟩ := b.exists_size_eq_two_pow
  obtain ⟨q, hq⟩ := Nat.dvd_of_mod_eq_zero h
  have hlt := mod_size_lt l b
  rw [translate, Nat.or_comm, hq]
  rw [hk] at hlt ⊢
  exact (Nat.two_pow_add_eq_or_of_lt hlt q).symm

/-- Settles O48: the slice, the period, and in an aligned bank the sum, which is injective on the window. -/
theorem translationStaysInTheBankAndRepeats : Obligations.TranslationStaysInTheBankAndRepeats := by
  intro b l
  obtain ⟨hlow, hhigh⟩ := translate_mem_slice l b
  refine ⟨⟨hlow, hhigh, hhigh.trans_le b.fits⟩, translate_add_size l b, fun h => ?_⟩
  refine ⟨translate_of_aligned h l, fun l' hl hl' heq => ?_⟩
  rw [translate_of_aligned h, translate_of_aligned h, Nat.mod_eq_of_lt hl, Nat.mod_eq_of_lt hl'] at heq
  exact Nat.add_left_cancel heq

theorem Size.bytes_dvd_size (n : Size) (b : BankDescriptor) : n.bytes ∣ b.size := by
  cases n <;> cases b <;> norm_num [Size.bytes, BankDescriptor.size]

/-- A naturally aligned access lies inside the bank window: what is left of the window is a positive multiple of the
access size (R64). -/
theorem aligned_fits {l : Nat} {n : Size} (h : l % n.bytes = 0) (b : BankDescriptor) :
    l % b.size + n.bytes ≤ b.size := by
  have hlt := mod_size_lt l b
  have hmod : n.bytes ∣ l % b.size := (Nat.dvd_mod_iff (n.bytes_dvd_size b)).mpr (Nat.dvd_of_mod_eq_zero h)
  have hleft : n.bytes ≤ b.size - l % b.size :=
    Nat.le_of_dvd (Nat.sub_pos_of_lt hlt) (Nat.dvd_sub (n.bytes_dvd_size b) hmod)
  omega

namespace Machine

variable {s t : State}

/-! ### Which accesses span (R63, R64) -/

/-- With a usable bank a translating access is the access inside the window, and spans past its end. -/
theorem withTranslation_of_bank {b : BankDescriptor} (hb : s.selectedBank = some b) (l n : Nat) (f : Nat → State) :
    withTranslation s l n f = if b.size < l % b.size + n then s.raise .flashSpan else f (translate l b) := by
  simp only [withTranslation, hb, gt_iff_lt]

/-- What R64 says of a translating access whose body does not fault. -/
theorem withTranslation_spans {l : Nat} {n : Size} {f : Nat → State} (hf : ∀ p, (f p).fault = none) :
    (l % n.bytes = 0 → (withTranslation s l n.bytes f).fault ≠ some .flashSpan) ∧
      ∀ b, s.selectedBank = some b → (l % n.bytes = 0 → (withTranslation s l n.bytes f).fault = none) ∧
        ((withTranslation s l n.bytes f).fault = some .flashSpan ↔ b.size < l % b.size + n.bytes) := by
  refine ⟨fun ha => ?_, fun b hb => ?_⟩
  · obtain ⟨-, h⟩ | ⟨b, -, hspan, -⟩ | ⟨b, -, -, -, h⟩ := withTranslation_cases s l n.bytes f
    · simp [h]
    · exact absurd (aligned_fits ha b) (by omega)
    · simp [h, hf]
  · rw [withTranslation_of_bank hb]
    refine ⟨fun ha => ?_, ?_⟩
    · rw [if_neg (by have := aligned_fits ha b; omega), hf]
    · split_ifs with hspan <;> simp [hspan, hf]

theorem ne_flashSpan_of_gate {u : State} (h : whenRunning s (.next u) = .next t)
    (hu : s.fault = none → u.fault ≠ some .flashSpan) : t.fault ≠ some .flashSpan := by
  obtain ⟨hs, hut⟩ := whenRunning_eq_next.mp h
  cases hut
  exact hu hs

/-- No operation that does not translate raises `FlashSpan`: it faults with another kind or not at all (R201). -/
theorem exec_ne_flashSpan {i : Instr} (hread : ∀ o n, i ≠ .frArray o n) (hprog : ∀ o d, i ≠ .fwProgData o d)
    (h : exec i s = .next t) : t.fault ≠ some .flashSpan := by
  cases i with
  | frArray o n => exact absurd rfl (hread o n)
  | fwProgData o d => exact absurd rfl (hprog o d)
  | fwBadsize | frBadsize | iowLedRsvd | iowBankspiRsvd | ioBadsize => exact ne_flashSpan_of_gate h fun _ => by simp
  | iowLed | iowBankspi => exact ne_flashSpan_of_gate h fun hs => by split_ifs <;> simp [hs]
  | _ => exact ne_flashSpan_of_gate h fun hs => by simp [hs]

/-- Settles O49: both translating accesses complete behind the gate, and no other operation spans. -/
theorem alignedAccessesNeverSpan : Obligations.AlignedAccessesNeverSpan := by
  refine fun s t => ⟨fun o n h => ?_, fun o d h => ?_, fun i => exec_ne_flashSpan⟩
  · obtain ⟨hs, ht⟩ := whenRunning_eq_next.mp h
    cases ht
    exact withTranslation_spans fun p => hs
  · obtain ⟨hs, ht⟩ := whenRunning_eq_next.mp h
    cases ht
    exact withTranslation_spans fun p => by simp [hs]

/-! ### MemRead and MemWrite (R56 to R58) -/

/-- The weight of byte `k`, as the statements and as the store's law write it. -/
theorem byte_weight (k : Nat) : 0x100 ^ k = 2 ^ (8 * k) := (Nat.pow_mul 2 8 k).symm

theorem two_pow_succ_byte (n : Nat) : 2 ^ (8 * (n + 1)) = 0x100 * 2 ^ (8 * n) := by
  rw [Nat.mul_succ, Nat.pow_add, Nat.mul_comm]

theorem memRead_lt (s : State) (p n : Nat) : s.memRead p n < 2 ^ (8 * n) := by
  induction n generalizing p with
  | zero => exact Nat.one_pos
  | succ n ih =>
    have hbyte := (s.flashByte p).isLt
    have hrest := ih (p + 1)
    rw [two_pow_succ_byte, State.memRead]
    omega

/-- Byte `k` of `MemRead(p, n)` is `FLASH[p + k]` (R56). -/
theorem memRead_byte (s : State) {p n k : Nat} (hk : k < n) :
    s.memRead p n / 2 ^ (8 * k) % 0x100 = (s.flashByte (p + k)).toNat := by
  induction n generalizing p k with
  | zero => omega
  | succ n ih =>
    have hbyte := (s.flashByte p).isLt
    rw [State.memRead]
    cases k with
    | zero => simp only [Nat.mul_zero, Nat.pow_zero, Nat.div_one, Nat.add_zero]; omega
    | succ k =>
      have hrest : ((s.flashByte p).toNat + 0x100 * s.memRead (p + 1) n) / 0x100 = s.memRead (p + 1) n := by omega
      rw [two_pow_succ_byte, ← Nat.div_div_eq_div_mul, hrest, ih (by omega), Nat.add_right_comm, Nat.add_assoc]

theorem flashByte_memWrite_inside (s : State) (p v : Nat) {n k : Nat} (hk : k < n) :
    (s.memWrite p n v).flashByte (p + k) = BitVec.ofNat 8 (v / 2 ^ (8 * k)) := by
  rw [flashByte_memWrite, if_pos (by omega), Nat.add_sub_cancel_left, byte_weight]

theorem flashByte_memWrite_outside (s : State) {p n : Nat} (v : Nat) {a : Nat} (ha : a < p ∨ p + n ≤ a) :
    (s.memWrite p n v).flashByte a = s.flashByte a := by
  rw [flashByte_memWrite, if_neg (by omega)]

/-- A read inside what was written sees its part of the value (R58). -/
theorem memRead_memWrite (s : State) (p v : Nat) {n j m : Nat} (h : j + m ≤ n) :
    (s.memWrite p n v).memRead (p + j) m = v / 2 ^ (8 * j) % 2 ^ (8 * m) := by
  induction m generalizing j with
  | zero => simp [State.memRead, Nat.mod_one]
  | succ m ih =>
    have hnext : v / 2 ^ (8 * (j + 1)) = v / 2 ^ (8 * j) / 0x100 := by
      rw [two_pow_succ_byte, Nat.mul_comm, Nat.div_div_eq_div_mul]
    rw [State.memRead, flashByte_memWrite_inside s p v (by omega), Nat.add_assoc, ih (by omega), hnext,
      two_pow_succ_byte, Nat.mod_mul, BitVec.toNat_ofNat]

/-- Settles O50: the bytes of a read, and the bytes and reads of what was written. -/
theorem memReadReturnsWhatMemWriteStored : Obligations.MemReadReturnsWhatMemWriteStored := by
  refine ⟨fun s p n => ⟨memRead_lt s p n, fun k hk => memRead_byte s hk⟩, fun s p n v hv => ⟨?_, ?_, ?_, ?_⟩⟩
  · have hwhole : (s.memWrite p n v).memRead (p + 0) n = _ := memRead_memWrite s p v (Nat.zero_add n).le
    simpa [Nat.mod_eq_of_lt hv] using hwhole
  · exact fun k hk => flashByte_memWrite_inside s p v hk
  · exact fun a ha => flashByte_memWrite_outside s v ha
  · exact fun j m h => memRead_memWrite s p v h

/-! ### What does not reach the block (R54) -/

/-- A flash transaction that does not lie inside the window is refused. -/
theorem receiveSized_flash_refused {dir : Dir} {z : SizeCode} {o : Offset} {v : BitVec 32} {n : Nat} {i : Instr}
    (h : s.fault = none) (hd : decode s.position (pack .flash dir z o v) = .ok i) (hz : z = SizeCode.ofBytes n)
    (hout : s.cfg.flashWindowSize ≤ o.toNat ∨ s.cfg.flashWindowSize < o.toNat + n) :
    s.receiveSized (pack .flash dir z o v) n = .refused .notDeliverable := by
  refine receiveSized_refused h hd (by simpa using hz) ?_
  rw [deliverable_flash, Bool.eq_false_iff, ne_eq, Config.inFlashWindow_iff]
  omega

/-- So is one of an accepted size, whose code names the size. -/
theorem receive_flash_refused {dir : Dir} {n : Size} {o : Offset} {v : BitVec 32} {i : Instr}
    (h : s.fault = none) (hd : decode s.position (pack .flash dir n.code o v) = .ok i)
    (hout : s.cfg.flashWindowSize < o.toNat + n.bytes) :
    s.receive (pack .flash dir n.code o v) = .refused .notDeliverable := by
  rw [State.receive, pack_szc]
  exact receiveSized_flash_refused h hd (by simp) (Or.inr (by simpa using hout))

/-- An I/O transaction above offset 14 is refused, whatever its size. -/
theorem receiveSized_io_refused {dir : Dir} {z : SizeCode} {o : Offset} {v : BitVec 32} {n : Nat} (h : s.fault = none)
    (hv : dir = .read → v = 0) (ho : 14 < o.toNat) :
    s.receiveSized (pack .io dir z o v) n = .refused .notDeliverable :=
  receiveSized_rejected h (decode_io_outside hv ho)

/-- Settles O9: the two windows, and the refusal of every size in both regions and directions. -/
theorem undeliverableTransactionsAreRefused : Obligations.UndeliverableTransactionsAreRefused := by
  intro s h
  refine ⟨fun td n hr => ?_, fun td n hr => ?_, fun o d hout => ?_, fun o n hout => ?_,
    fun n h1 h2 h4 o hout => ?_, fun n o v ho => ?_, fun n o ho => ?_⟩
  · simp only [deliverable, hr, Config.inFlashWindow_iff]
  · simp only [deliverable, hr, decide_eq_true_eq]
    exact Nat.lt_succ_iff
  · exact receive_flash_refused h (decode_fw _ o d) hout
  · exact receive_flash_refused h (decode_fr _ o n) hout
  · have hz : SizeCode.other = SizeCode.ofBytes n := (SizeCode.ofBytes_eq_other.mpr ⟨h1, h2, h4⟩).symm
    exact ⟨fun v => receiveSized_flash_refused h (decode_flash_write _ _ o v) hz hout,
      receiveSized_flash_refused h (decode_flash_read _ _ o) hz hout⟩
  · exact receiveSized_io_refused h nofun ho
  · exact receiveSized_io_refused h (fun _ => rfl) ho

/-! ### A bank switch before the datum (R65, R246) -/

/-- Below `0x80` the reserved bit is clear, and the bank write completes (R32). -/
theorem receive_iow_bank {v : Byte} (h : s.fault = none) (hv : v.toNat < 0x80) :
    s.receive (iow 1 v) = .next (s.setBankSpi v).finish := by
  have hbit : ¬ v.getLsbD 7 = true := Bool.eq_false_iff.mp (Nat.testBit_lt_two_pow hv)
  have hd : decode s.position (iow 1 v) = .ok (.iowBankspi v) := by rw [decode_iow_one, if_neg hbit]
  rw [receive_eq_exec h hd (deliverable_io _ _ _ _ _ _)]
  exact (whenRunning_running h).trans (by rw [if_neg hbit])

/-- With a program armed and a usable bank a datum inside the bank window is committed (R153). -/
theorem receive_fw_commit {o : Offset} {d : Datum} {b : BankDescriptor} (h : s.fault = none) (hm : s.mode = .writing)
    (hb : s.selectedBank = some b) (hfit : o.toNat % b.size + d.size.bytes ≤ b.size)
    (hwin : s.cfg.inFlashWindow o.toNat d.size.bytes = true) :
    s.receive (fw o d) =
      .next ((s.memWrite (translate o.toNat b) d.size.bytes d.toNat).moveTo .normal .one).finish := by
  have hd : decode s.position (fw o d) = .ok (.fwProgData o d) := by simp [decode_fw, selectFlashWrite, hm]
  rw [receive_eq_exec h hd (by simpa [fw] using hwin)]
  refine (whenRunning_running h).trans (congrArg _ ?_)
  rw [withTranslation_of_bank hb, if_neg (Nat.not_lt.mpr hfit)]

/-- Settles O53: after the bank write the selected bank is the one it names, and the datum is committed there. -/
theorem bankIsSampledWhenTheDatumArrives : Obligations.BankIsSampledWhenTheDatumArrives := by
  intro s v o d b h hm hv hb hfit hwin
  have hswitch := receive_iow_bank h hv
  have hbank : (s.setBankSpi v).finish.selectedBank = some b := by simpa [State.selectedBank] using hb
  have hcommit := receive_fw_commit (s := (s.setBankSpi v).finish) h hm hbank hfit hwin
  refine ⟨_, (receiveAll_cons hswitch).trans (receiveAll_cons hcommit), rfl, fun k hk => ?_, fun a ha => ?_⟩
  · exact flashByte_memWrite_inside _ _ _ hk
  · exact flashByte_memWrite_outside (s.setBankSpi v).finish _ ha

end Machine

end Sys2Proof

/-! ### Settling the family 30_encoding.md

The formats of R92 to R94 are one relation (`Selects`): the decoder answers an operation exactly where the relation holds
(`decode_eq_ok_iff`), and the relation covers every packed transaction (`exists_selects`). O2 is read off it format by
format, O1 row by row off what each format decodes to, and the unique row of O3 follows from these two. -/

namespace Sys2Proof

open Machine

/-! ### Sizes and data fit their size code (R67, R91) -/

/-- A size code is the code 3 or names an accepted size. -/
theorem SizeCode.eq_other_or_code (z : SizeCode) : z = .other ∨ ∃ n : Size, z = n.code := by
  cases z with
  | one => exact .inr ⟨.one, rfl⟩
  | two => exact .inr ⟨.two, rfl⟩
  | four => exact .inr ⟨.four, rfl⟩
  | other => exact .inl rfl

theorem SizeCode.holds_zero (z : SizeCode) : z.holds 0 = true := by cases z <;> rfl

theorem SizeCode.one_holds_setWidth (v : Byte) : SizeCode.one.holds (v.setWidth 32) = true :=
  Datum.holds_field (.byte v)

/-- A value that fits its size is the value field of a datum of that size. -/
theorem Size.exists_datum {n : Size} {v : BitVec 32} (h : n.code.holds v = true) :
    ∃ d : Datum, d.size = n ∧ d.field = v := by
  refine ⟨n.datum v, by cases n <;> rfl, BitVec.eq_of_toNat_eq ?_⟩
  cases n with
  | one | two =>
    simp only [Size.code, SizeCode.holds, decide_eq_true_eq] at h
    simp only [Size.datum, Datum.field, BitVec.toNat_setWidth]
    omega
  | four => rfl

/-! ### What an I/O transaction decodes to (R94, R98) -/

theorem decode_io {c : Position} {dir : Dir} {z : SizeCode} {o : Offset} {v : BitVec 32} (hv : dir = .read → v = 0)
    (ho : o.toNat ≤ 14) : decode c (pack .io dir z o v) =
      if z.holds v then .ok (decodeIo dir z o v) else .error .valueWidth := by
  have hread : ¬ (dir = .read ∧ v ≠ 0) := fun h => h.2 (hv h.1)
  have hin : ¬ ioWindowSize ≤ o.toNat := Nat.not_le.mpr (Nat.lt_succ_of_le ho)
  simp only [decode, pack_zeros, pack_dir, pack_value, pack_region, pack_offset, pack_szc, ne_eq, not_true_eq_false,
    if_false, if_neg hread, if_neg hin]

theorem decode_iow (c : Position) {o : Offset} (v : Byte) (ho : o.toNat ≤ 14) :
    decode c (iow o v) = .ok (selectIoWrite o v) := by
  rw [iow, decode_io (fun h => absurd h (by decide)) ho, if_pos (SizeCode.one_holds_setWidth v)]
  simp [decodeIo]

theorem decode_ior (c : Position) {o : Offset} (ho : o.toNat ≤ 14) : decode c (ior o) = .ok (selectIoRead o) :=
  decode_io (fun _ => rfl) ho

theorem Instr.wellFormed_ioBadsize {dir : Dir} {z : SizeCode} {o : Offset} {v : BitVec 32} :
    (Instr.ioBadsize dir z o v).wellFormed = true ↔
      z ≠ .one ∧ o.toNat ≤ 14 ∧ z.holds v = true ∧ (dir = .read → v = 0) := by
  cases dir <;> simp [Instr.wellFormed, and_assoc]

theorem Offset.undefinedIo_iff {o : Offset} : o.undefinedIo = true ↔ 2 ≤ o.toNat ∧ o.toNat ≤ 14 := by
  simp [Offset.undefinedIo]

/-- The offsets of the register map and the undefined ones are all there are (R25). -/
theorem Offset.undefinedIo_of_ne {o : Offset} (ho : o.toNat ≤ 14) (h0 : o ≠ 0) (h1 : o ≠ 1) :
    o.undefinedIo = true := by
  rw [Offset.undefinedIo_iff]
  bv_omega

theorem Offset.undefinedIo_ne {o : Offset} (h : o.undefinedIo = true) : o ≠ 0 ∧ o ≠ 1 := by
  constructor <;> rintro rfl <;> exact absurd h (by decide)

/-! ### Fixed words, and words that pack no transaction -/

/-- Settles O4: the decoder evaluated on each word. -/
theorem tableWordsDecode : Obligations.TableWordsDecode :=
  ⟨rfl, rfl, rfl, rfl, rfl, rfl, rfl, rfl, rfl⟩

/-- A write whose value is wider than its size is no transaction of either region (R67). -/
theorem decode_write_overwide {c : Position} {r : Region} {z : SizeCode} {o : Offset} {v : BitVec 32}
    (hz : z.holds v = false) (ho : r = .io → o.toNat ≤ 14) :
    decode c (pack r .write z o v) = .error .valueWidth := by
  cases r with
  | flash =>
    rw [decode_flash_write]
    cases z with
    | one | two => exact if_neg (ne_true_of_eq_false hz)
    | four | other => cases hz
  | io => exact (decode_io (fun h => absurd h (by decide)) (ho rfl)).trans (if_neg (ne_true_of_eq_false hz))

/-- Settles O5: the reserved bits and the value of a read are tested first; past them the word is the packing of its
fields. -/
theorem wordsOutsideThePackingAreRejected : Obligations.WordsOutsideThePackingAreRejected := by
  intro c td
  refine ⟨fun hz => if_pos hz, fun hz hd hv => (if_neg (not_not.mpr hz)).trans (if_pos ⟨hd, hv⟩),
    fun hz hd hr ho => ?_, fun hz _ hv hr ho => ?_, fun hz hd ho hw => ?_⟩
  · rw [← pack_fields td hz, hr, hd]
    exact decode_io_outside (fun h => absurd h (by decide)) ho
  · rw [← pack_fields td hz, hr]
    exact decode_io_outside (fun _ => hv) ho
  · rw [← pack_fields td hz, hd]
    exact decode_write_overwide hw ho

/-! ### The decoder by formats (R92 to R94, R101) -/

/-- The descriptors of transactions, format by format, with the operation each is in the context `c`. -/
inductive Selects (c : Position) : TD → Instr → Prop
  | fwBadsize (o : Offset) (v : BitVec 32) : Selects c (pack .flash .write .other o v) (.fwBadsize o v)
  | fw (o : Offset) (d : Datum) : Selects c (fw o d) (selectFlashWrite c o d)
  | frBadsize (o : Offset) : Selects c (pack .flash .read .other o 0) (.frBadsize o)
  | fr (o : Offset) (n : Size) : Selects c (fr n o) (selectFlashRead c.mode o n)
  | iow {o : Offset} (v : Byte) (ho : o.toNat ≤ 14) : Selects c (iow o v) (selectIoWrite o v)
  | ior {o : Offset} (ho : o.toNat ≤ 14) : Selects c (ior o) (selectIoRead o)
  | ioBadsize {dir : Dir} {z : SizeCode} {o : Offset} {v : BitVec 32}
      (hw : (Instr.ioBadsize dir z o v).wellFormed = true) : Selects c (pack .io dir z o v) (.ioBadsize dir z o v)

variable {c : Position} {td : TD} {i : Instr}

theorem Selects.decode_eq (h : Selects c td i) : decode c td = .ok i := by
  cases h with
  | fwBadsize o v => exact decode_flash_write c .other o v
  | fw o d => exact decode_fw c o d
  | frBadsize o => exact decode_flash_read c .other o
  | fr o n => exact decode_fr c o n
  | iow v ho => exact decode_iow c v ho
  | ior ho => exact decode_ior c ho
  | ioBadsize hw =>
    obtain ⟨hz, ho, hv, hr⟩ := Instr.wellFormed_ioBadsize.mp hw
    rw [decode_io hr ho, if_pos hv]
    exact congrArg _ (if_neg hz)

/-- What R67, R91 and R54 ask of the fields of a transaction, they select a row for (R101). -/
theorem exists_selects (c : Position) {r : Region} {d : Dir} {z : SizeCode} {o : Offset} {v : BitVec 32}
    (hz : z.holds v = true) (hr : d = .read → v = 0) (ho : r = .io → o.toNat ≤ 14) :
    ∃ i, Selects c (pack r d z o v) i := by
  cases r with
  | flash =>
    cases d with
    | write =>
      obtain rfl | ⟨n, rfl⟩ := z.eq_other_or_code
      · exact ⟨_, .fwBadsize o v⟩
      · obtain ⟨d, rfl, rfl⟩ := Size.exists_datum hz
        exact ⟨_, .fw o d⟩
    | read =>
      obtain rfl := hr rfl
      obtain rfl | ⟨n, rfl⟩ := z.eq_other_or_code
      · exact ⟨_, .frBadsize o⟩
      · exact ⟨_, .fr o n⟩
  | io =>
    by_cases h1 : z = .one
    · subst h1
      cases d with
      | write =>
        obtain ⟨d, hd, rfl⟩ := Size.exists_datum (n := .one) hz
        cases d with
        | byte b => exact ⟨_, .iow b (ho rfl)⟩
        | half | word => cases hd
      | read =>
        obtain rfl := hr rfl
        exact ⟨_, .ior (ho rfl)⟩
    · exact ⟨_, .ioBadsize (Instr.wellFormed_ioBadsize.mpr ⟨h1, ho rfl, hz, hr⟩)⟩

/-- Only a word that packs a transaction is decoded (R67, R91, R54). -/
theorem decode_ok_fields (h : decode c td = .ok i) :
    td.zeros = 0 ∧ td.szc.holds td.value = true ∧ (td.dir = .read → td.value = 0) ∧
      (td.region = .io → td.offset.toNat ≤ 14) := by
  obtain ⟨hreserved, hread, hwriteOffset, hreadOffset, hwidth⟩ := wordsOutsideThePackingAreRejected c td
  have hok (e : DecodeError) : decode c td ≠ .error e := fun he => nomatch h.symm.trans he
  have hz : td.zeros = 0 := by_contra fun hz => hok _ (hreserved hz)
  have hv : td.dir = .read → td.value = 0 := fun hd => by_contra fun hv => hok _ (hread hz hd hv)
  have ho : td.region = .io → td.offset.toNat ≤ 14 := by
    refine fun hr => not_lt.mp fun hlt => ?_
    cases hd : td.dir with
    | read => exact hok _ (hreadOffset hz hd (hv hd) hr hlt)
    | write => exact hok _ (hwriteOffset hz hd hr hlt)
  refine ⟨hz, ?_, hv, ho⟩
  cases hd : td.dir with
  | read => rw [hv hd]; exact td.szc.holds_zero
  | write => exact by_contra fun hw => hok _ (hwidth hz hd ho (eq_false_of_ne_true hw))

/-- The decoder is the relation: what it answers is the row of the descriptor's format, and it answers every one. -/
theorem decode_eq_ok_iff : decode c td = .ok i ↔ Selects c td i := by
  refine ⟨fun h => ?_, Selects.decode_eq⟩
  obtain ⟨hzeros, hholds, hread, hio⟩ := decode_ok_fields h
  obtain ⟨j, hj⟩ := exists_selects c hholds hread hio
  rw [pack_fields td hzeros] at hj
  have hij : i = j := Except.ok.inj (h.symm.trans hj.decode_eq)
  exact hij ▸ hj

/-! ### From a descriptor to its operation and back -/

/-- The commands of the cycle parser, cycle, offset and byte, as R97 tabulates them. -/
inductive Command : Cycle → Offset → Byte → Instr → Prop
  | cfiq : Command .one 0xAA 0x98 .fwCfiq
  | unlock1 : Command .one 0xAAAA 0xAA .fwUnlock1
  | unlock2 : Command .two 0x5555 0x55 .fwUnlock2
  | eraseSetup : Command .three 0xAAAA 0x80 .fwEraseSetup
  | autosel : Command .three 0xAAAA 0x90 .fwAutosel
  | progSetup : Command .three 0xAAAA 0xA0 .fwProgSetup
  | unlock3 : Command .four 0xAAAA 0xAA .fwUnlock3
  | unlock4 : Command .five 0x5555 0x55 .fwUnlock4
  | sectorErase (o : Offset) : Command .six o 0x30 (.fwSectorErase o)

variable {k : Cycle} {o : Offset} {v : Byte} {d : Datum}

theorem parseCommand_eq_some_iff : parseCommand k o v = some i ↔ Command k o v i := by
  constructor
  · intro h
    cases k <;> simp only [parseCommand] at h
    case one =>
      split_ifs at h with hq hu <;> cases h
      · obtain ⟨rfl, rfl⟩ := hq; exact .cfiq
      · obtain ⟨rfl, rfl⟩ := hu; exact .unlock1
    case two =>
      split_ifs at h with hu; cases h
      obtain ⟨rfl, rfl⟩ := hu; exact .unlock2
    case three =>
      split_ifs at h with he ha hp <;> cases h
      · obtain ⟨rfl, rfl⟩ := he; exact .eraseSetup
      · obtain ⟨rfl, rfl⟩ := ha; exact .autosel
      · obtain ⟨rfl, rfl⟩ := hp; exact .progSetup
    case four =>
      split_ifs at h with hu; cases h
      obtain ⟨rfl, rfl⟩ := hu; exact .unlock3
    case five =>
      split_ifs at h with hu; cases h
      obtain ⟨rfl, rfl⟩ := hu; exact .unlock4
    case six =>
      split_ifs at h with he; cases h
      obtain rfl := he; exact .sectorErase o
  · intro h
    cases h <;> rfl

theorem Command.wellFormed_and_encode (h : Command k o v i) : i.wellFormed = true ∧ encode i = fw o (.byte v) := by
  cases h <;> exact ⟨rfl, rfl⟩

/-- No command is the byte of the universal reset (R101). -/
theorem Command.ne_reset (h : Command k o v i) : v ≠ 0xF0 := by
  cases h <;> decide

/-- A command is admitted by its row of R97. -/
theorem Command.admits (h : Command k o v i) : commandRows.any (fun r => r.admits k o (.byte v)) = true := by
  cases h with
  | sectorErase o => simp [commandRows, CommandRow.admits]
  | _ => rfl

theorem Instr.wellFormed_fwIgnored : (Instr.fwIgnored o d).wellFormed = true ↔ ¬ (o = 0x00 ∧ d = .byte 0xF0) := by
  simp only [Instr.wellFormed, Bool.not_eq_true', Bool.and_eq_false_iff, decide_eq_false_iff_not, not_and_or]

theorem selectFlashWrite_wellFormed_and_encode (c : Position) (o : Offset) (d : Datum) :
    (selectFlashWrite c o d).wellFormed = true ∧ encode (selectFlashWrite c o d) = fw o d := by
  unfold selectFlashWrite
  split_ifs with hw hreset hn
  · exact ⟨rfl, rfl⟩
  · obtain ⟨rfl, rfl⟩ := hreset
    exact ⟨rfl, rfl⟩
  · exact ⟨Instr.wellFormed_fwIgnored.mpr hreset, rfl⟩
  · cases d with
    | byte v =>
      cases hp : parseCommand c.cycle o v with
      | none =>
        simp only [hp, Option.getD_none]
        exact ⟨Instr.wellFormed_fwIgnored.mpr hreset, rfl⟩
      | some i => simpa [hp] using (parseCommand_eq_some_iff.mp hp).wellFormed_and_encode
    | half | word => exact ⟨Instr.wellFormed_fwIgnored.mpr hreset, rfl⟩

theorem selectFlashRead_wellFormed_and_encode (m : Mode) (o : Offset) (n : Size) :
    (selectFlashRead m o n).wellFormed = true ∧ encode (selectFlashRead m o n) = fr n o := by
  cases m <;> exact ⟨rfl, rfl⟩

theorem selectIoWrite_wellFormed_and_encode {o : Offset} (v : Byte) (ho : o.toNat ≤ 14) :
    (selectIoWrite o v).wellFormed = true ∧ encode (selectIoWrite o v) = iow o v := by
  unfold selectIoWrite
  split_ifs with h0 hled h1 hbank
  · exact ⟨decide_eq_true hled, by rw [h0]; rfl⟩
  · exact ⟨decide_eq_true hled, by rw [h0]; rfl⟩
  · exact ⟨hbank, by rw [h1]; rfl⟩
  · exact ⟨by simpa [Instr.wellFormed] using hbank, by rw [h1]; rfl⟩
  · exact ⟨Offset.undefinedIo_of_ne ho h0 h1, rfl⟩

theorem selectIoRead_wellFormed_and_encode {o : Offset} (ho : o.toNat ≤ 14) :
    (selectIoRead o).wellFormed = true ∧ encode (selectIoRead o) = ior o := by
  unfold selectIoRead
  split_ifs with h0 h1
  · exact ⟨rfl, by rw [h0]; rfl⟩
  · exact ⟨rfl, by rw [h1]; rfl⟩
  · exact ⟨Offset.undefinedIo_of_ne ho h0 h1, rfl⟩

theorem Selects.wellFormed_and_encode (h : Selects c td i) : i.wellFormed = true ∧ encode i = td := by
  cases h with
  | fwBadsize o v => exact ⟨rfl, rfl⟩
  | fw o d => exact selectFlashWrite_wellFormed_and_encode c o d
  | frBadsize o => exact ⟨rfl, rfl⟩
  | fr o n => exact selectFlashRead_wellFormed_and_encode c.mode o n
  | iow v ho => exact selectIoWrite_wellFormed_and_encode v ho
  | ior ho => exact selectIoRead_wellFormed_and_encode ho
  | ioBadsize hw => exact ⟨hw, rfl⟩

/-- Settles O2: the row of the descriptor's format has that descriptor, and its context selects it. -/
theorem decodedOperationEncodesBack : Obligations.DecodedOperationEncodesBack := by
  intro c td i h
  obtain ⟨hwf, henc⟩ := (decode_eq_ok_iff.mp h).wellFormed_and_encode
  exact ⟨hwf, decode_selectedIn h, henc⟩

/-! ### From an operation to its descriptor and back -/

/-- A write that is no reset and that no row of R97 admits is ignored outside `Writing` (R101). -/
theorem selectFlashWrite_ignored (hwf : (Instr.fwIgnored o d).wellFormed = true)
    (hsel : (Instr.fwIgnored o d).selectedIn c = true) : selectFlashWrite c o d = .fwIgnored o d := by
  have hreset := Instr.wellFormed_fwIgnored.mp hwf
  simp only [Instr.selectedIn, Bool.and_eq_true, Bool.not_eq_true', Bool.and_eq_false_iff, decide_eq_true_eq,
    decide_eq_false_iff_not] at hsel
  obtain ⟨hw, hrow⟩ := hsel
  unfold selectFlashWrite
  rw [if_neg hw, if_neg hreset]
  split_ifs with hn
  · rfl
  · cases d with
    | byte v =>
      cases hp : parseCommand c.cycle o v with
      | none => simp [hp]
      | some i =>
        have hadmits := (parseCommand_eq_some_iff.mp hp).admits
        exact absurd (hrow.resolve_left hn) (ne_false_of_eq_true hadmits)
    | half | word => rfl

theorem decode_reset (hw : c.mode ≠ .writing) : decode c (encode .fwReset) = .ok .fwReset := by
  refine (decode_fw c 0x00 (.byte 0xF0)).trans (congrArg _ ?_)
  simp [selectFlashWrite, hw]

/-- The descriptor of a command is the command at its cycle of `Normal` (R97). -/
theorem Command.decode_encode (h : Command k o v i) : decode ⟨.normal, k⟩ (encode i) = .ok i := by
  rw [h.wellFormed_and_encode.2, decode_fw]
  have hreset : ¬ (o = 0x00 ∧ Datum.byte v = .byte 0xF0) := fun e => h.ne_reset (Datum.byte.inj e.2)
  unfold selectFlashWrite
  rw [if_neg hreset]
  simp [parseCommand_eq_some_iff.mpr h]

/-- At an undefined offset of the I/O window a one-byte access is that of the undefined row (R98). -/
theorem selectIo_undefined (h : o.undefinedIo = true) :
    selectIoWrite o v = .iowUndef o v ∧ selectIoRead o = .iorUndef o := by
  obtain ⟨h0, h1⟩ := Offset.undefinedIo_ne h
  exact ⟨(if_neg h0).trans (if_neg h1), (if_neg h0).trans (if_neg h1)⟩

/-- Settles O1, row by row through what the format of the row's descriptor decodes to. -/
theorem encodedOperationDecodesBack : Obligations.EncodedOperationDecodesBack := by
  intro i c hwf hsel
  cases i with
  | fwBadsize o v => exact decode_flash_write c .other o v
  | fwProgData o d =>
    have hselect : selectFlashWrite c o d = .fwProgData o d := if_pos (of_decide_eq_true hsel)
    exact (decode_fw c o d).trans (congrArg _ hselect)
  | fwReset => exact decode_reset (of_decide_eq_true hsel)
  | fwCfiq => obtain rfl := of_decide_eq_true hsel; exact Command.cfiq.decode_encode
  | fwUnlock1 => obtain rfl := of_decide_eq_true hsel; exact Command.unlock1.decode_encode
  | fwUnlock2 => obtain rfl := of_decide_eq_true hsel; exact Command.unlock2.decode_encode
  | fwEraseSetup => obtain rfl := of_decide_eq_true hsel; exact Command.eraseSetup.decode_encode
  | fwAutosel => obtain rfl := of_decide_eq_true hsel; exact Command.autosel.decode_encode
  | fwProgSetup => obtain rfl := of_decide_eq_true hsel; exact Command.progSetup.decode_encode
  | fwUnlock3 => obtain rfl := of_decide_eq_true hsel; exact Command.unlock3.decode_encode
  | fwUnlock4 => obtain rfl := of_decide_eq_true hsel; exact Command.unlock4.decode_encode
  | fwSectorErase o => obtain rfl := of_decide_eq_true hsel; exact (Command.sectorErase o).decode_encode
  | fwIgnored o d => exact (decode_fw c o d).trans (congrArg _ (selectFlashWrite_ignored hwf hsel))
  | frBadsize o => exact decode_flash_read c .other o
  | frArray o n | frCfi o n | frId o n =>
    refine (decode_fr c o n).trans (congrArg _ ?_)
    rw [of_decide_eq_true hsel]
    rfl
  | frBusy o n =>
    refine (decode_fr c o n).trans (congrArg _ ?_)
    simp only [Instr.selectedIn, Bool.or_eq_true, decide_eq_true_eq] at hsel
    rcases hsel with hm | hm <;> rw [hm] <;> rfl
  | iowLed v =>
    have hselect : selectIoWrite 0 v = .iowLed v := if_pos (of_decide_eq_true hwf)
    exact (decode_iow c v (by decide)).trans (congrArg _ hselect)
  | iowLedRsvd v =>
    have hselect : selectIoWrite 0 v = .iowLedRsvd v := if_neg (of_decide_eq_true hwf)
    exact (decode_iow c v (by decide)).trans (congrArg _ hselect)
  | iowBankspi v =>
    have hbit : ¬ v.getLsbD 7 = true := by simpa [Instr.wellFormed] using hwf
    exact (decode_iow_one c v).trans (congrArg _ (if_neg hbit))
  | iowBankspiRsvd v => exact (decode_iow_one c v).trans (congrArg _ (if_pos hwf))
  | iowUndef o v =>
    exact (decode_iow c v (Offset.undefinedIo_iff.mp hwf).2).trans (congrArg _ (selectIo_undefined hwf).1)
  | iorId => exact decode_ior c (by decide)
  | iorStatus => exact decode_ior c (by decide)
  | iorUndef o =>
    exact (decode_ior c (Offset.undefinedIo_iff.mp hwf).2).trans (congrArg _ (selectIo_undefined (v := 0) hwf).2)
  | ioBadsize dir z o v => exact (Selects.ioBadsize hwf).decode_eq

/-- Settles O3: some row has the transaction's format, and by the two round trips any row with that descriptor is it. -/
theorem everyTransactionSelectsExactlyOneRow : Obligations.EveryTransactionSelectsExactlyOneRow := by
  intro c r d z o v hz hr ho
  obtain ⟨i, hi⟩ := exists_selects c hz hr ho
  refine ⟨i, hi.decode_eq, fun j => ⟨?_, ?_⟩⟩
  · rintro ⟨hwf, hsel, henc⟩
    have hj := encodedOperationDecodesBack j c hwf hsel
    rw [henc] at hj
    exact Except.ok.inj (hj.symm.trans hi.decode_eq)
  · rintro rfl
    exact decodedOperationEncodesBack c _ j hi.decode_eq

end Sys2Proof

/-! ### Settling the family 40_control_registers.md

The fields of a written byte as numbers (R8), what an I/O transaction runs (R98, R120) and what one operation does to the
registers (`exec_registers`) are said once. O22 goes through the decoder's formats (`Selects`); O40 to O45 are the rows of
the window, each executed and issued; O46 is read off `exec_registers` and the family 10_state.md's `exec_executed`. -/

namespace Sys2Proof

/-- The operations of the I/O window keep the position (R120). -/
theorem Instr.nextPosition_of_ofIoWindow {i : Instr} (c : Position) (h : i.ofIoWindow = true) :
    i.nextPosition c = c := by
  cases i with
  | iowLed | iowLedRsvd | iowBankspi | iowBankspiRsvd | iowUndef | iorId | iorStatus | iorUndef | ioBadsize => rfl
  | _ => cases h

namespace Machine

/-! ### Fields of a byte as numbers (R8, R91) -/

/-- A field of `n + 1` bits from `lo` is the listings' slice. -/
theorem ofNat_slice {w : Nat} (v : BitVec w) (lo n : Nat) :
    BitVec.ofNat (n + 1) (Listing.slice v.toNat (lo + n) lo) = v.extractLsb' lo (n + 1) := by
  refine BitVec.eq_of_toNat_eq ?_
  have hwidth : lo + n + 1 - lo = n + 1 := by omega
  rw [BitVec.toNat_ofNat, BitVec.extractLsb'_toNat, Nat.shiftRight_eq_div_pow, Listing.slice, hwidth, Nat.mod_mod]

/-- A bit is the listings' slice of one bit. -/
theorem decide_slice {w : Nat} (v : BitVec w) (k : Nat) : decide (Listing.slice v.toNat k k = 1) = v.getLsbD k := by
  rw [Listing.slice, Nat.add_sub_cancel_left, Nat.pow_one]
  exact Nat.testBit_eq_decide_div_mod_eq.symm

/-- The reserved bits of the LED register are clear below 8 (R31). -/
theorem ledReserved_iff (v : Byte) : v.extractLsb' 3 5 = 0 ↔ v.toNat < 8 := by
  have hv := v.isLt
  rw [← BitVec.toNat_inj, BitVec.extractLsb'_toNat, Nat.shiftRight_eq_div_pow]
  change v.toNat / 2 ^ 3 % 2 ^ 5 = 0 ↔ _
  omega

/-- The reserved bit of the bank register is set from `0x80` on (R32). -/
theorem bankSpiReserved_iff (v : Byte) : v.getLsbD 7 = true ↔ 0x80 ≤ v.toNat := by
  have hv := v.isLt
  rw [← decide_slice, Listing.slice, decide_eq_true_eq]
  omega

theorem toNat_append_eq_add {m n : Nat} (x : BitVec m) (y : BitVec n) :
    (x ++ y).toNat = 2 ^ n * x.toNat + y.toNat := by
  rw [BitVec.toNat_append, ← Nat.shiftLeft_add_eq_or_of_lt y.isLt, Nat.shiftLeft_eq, Nat.mul_comm]

/-- The status byte as the sum R125 writes. -/
theorem statusByte_toNat (s : State) : s.statusByte.toNat =
    2 ^ 7 * s.recovery.toNat + 2 ^ 5 * s.miso1.toNat + 2 ^ 4 * s.miso4.toNat + s.bank.toNat := by
  simp only [State.statusByte, toNat_append_eq_add, BitVec.toNat_ofBool, BitVec.toNat_zero]
  omega

variable {s t : State} {i : Instr} {o : Offset} {v : Byte}

/-! ### What the rows of the I/O window do in a running state (R121 to R127) -/

theorem exec_iowLed (h : s.fault = none) (v : Byte) :
    exec (.iowLed v) s = .next (if 8 ≤ v.toNat then s.raise .ledReservedBits else (s.setLed v).finish) := by
  refine (whenRunning_running h).trans ?_
  simp only [ne_eq, ledReserved_iff, Nat.not_lt]

theorem exec_iowBankspi (h : s.fault = none) (v : Byte) :
    exec (.iowBankspi v) s =
      .next (if 0x80 ≤ v.toNat then s.raise .bankSpiReservedBit else (s.setBankSpi v).finish) := by
  refine (whenRunning_running h).trans ?_
  simp only [bankSpiReserved_iff]

/-- The two results of a write that checks its value against a bound. -/
theorem next_of_ite {x : Host.Outcome State Fault Refusal} {n bound : Nat} {t u : State}
    (h : x = .next (if bound ≤ n then t else u)) : (n < bound → x = .next u) ∧ (bound ≤ n → x = .next t) :=
  ⟨fun hn => by rw [h, if_neg (Nat.not_le.mpr hn)], fun hn => by rw [h, if_pos hn]⟩

/-- The two rows of offset 0 are one operation that checks the reserved bits. -/
theorem exec_selectIoWrite_zero (s : State) (v : Byte) : exec (selectIoWrite 0 v) s = exec (.iowLed v) s := by
  rw [selectIoWrite, if_pos rfl]
  split_ifs with hv
  · rfl
  · exact congrArg (fun t => whenRunning s (.next t)) (if_pos hv).symm

/-- The two rows of offset 1 are one operation that checks the reserved bit. -/
theorem exec_selectIoWrite_one (s : State) (v : Byte) : exec (selectIoWrite 1 v) s = exec (.iowBankspi v) s := by
  rw [selectIoWrite, if_neg (by decide), if_pos rfl]
  split_ifs with hv
  · exact congrArg (fun t => whenRunning s (.next t)) (if_pos hv).symm
  · rfl

/-! ### What an I/O transaction runs (R54, R98) -/

theorem receive_iow (h : s.fault = none) (ho : o.toNat ≤ 14) (v : Byte) :
    s.receive (iow o v) = exec (selectIoWrite o v) s :=
  receive_eq_exec h (decode_iow s.position v ho) (by simpa [iow] using Nat.lt_succ_of_le ho)

theorem receive_ior (h : s.fault = none) (ho : o.toNat ≤ 14) : s.receive (ior o) = exec (selectIoRead o) s :=
  receive_eq_exec h (decode_ior s.position ho) (by simpa [ior] using Nat.lt_succ_of_le ho)

/-- Settles O43: the descriptor is that of a read at offset 0, which hands back the sentinel. -/
theorem idReadReturnsTheSentinel : Obligations.IdReadReturnsTheSentinel := by
  intro s h
  have hexec : exec .iorId s = .next (s.answer (.byte sentinel)) := whenRunning_running h
  exact ⟨hexec, (receive_ior (o := 0) h (by decide)).trans hexec⟩

/-- Settles O40: the row of offset 0 by the value of the byte, executed and issued. -/
theorem ledWriteSetsTheLedBits : Obligations.LedWriteSetsTheLedBits := by
  intro s v h
  have hissued : s.receive (iow 0 v) = exec (.iowLed v) s :=
    (receive_iow h (by decide) v).trans (exec_selectIoWrite_zero s v)
  obtain ⟨hsets, hfaults⟩ := next_of_ite (exec_iowLed h v)
  rw [hissued]
  exact ⟨hsets, hfaults, whenRunning_running h, hsets, hfaults⟩

/-- Settles O41: the row of offset 1 by the value of the byte, executed and issued. -/
theorem bankSpiWriteSetsFourFields : Obligations.BankSpiWriteSetsFourFields := by
  intro s v h
  have hissued : s.receive (iow 1 v) = exec (.iowBankspi v) s :=
    (receive_iow h (by decide) v).trans (exec_selectIoWrite_one s v)
  obtain ⟨hsets, hfaults⟩ := next_of_ite (exec_iowBankspi h v)
  rw [hissued]
  exact ⟨hsets, hfaults, whenRunning_running h, hsets, hfaults⟩

/-- Settles O42: at an undefined offset the window selects the two rows that do nothing. -/
theorem undefinedIoOffsetsAreNoOps : Obligations.UndefinedIoOffsetsAreNoOps := by
  intro s o v h
  have hwrite : exec (.iowUndef o v) s = .next s.finish := whenRunning_running h
  have hread : exec (.iorUndef o) s = .next (s.answer (.byte 0)) := whenRunning_running h
  refine ⟨hwrite, hread, fun hlow ho => ?_⟩
  obtain ⟨hselectWrite, hselectRead⟩ := selectIo_undefined (v := v) (Offset.undefinedIo_iff.mpr ⟨hlow, ho⟩)
  rw [receive_iow h ho, receive_ior h ho, hselectWrite, hselectRead]
  exact ⟨hwrite, hread⟩

/-- Settles O44: the byte is the status byte, bit by bit and as a number. -/
theorem statusReadComposesTheStatusByte : Obligations.StatusReadComposesTheStatusByte := by
  intro s h
  have hexec : exec .iorStatus s = .next (s.answer (.byte s.statusByte)) := whenRunning_running h
  have hsum := statusByte_toNat s
  refine ⟨s.statusByte, hexec, (receive_ior (o := 1) h (by decide)).trans hexec, ?_, ?_, ?_, ?_,
    BitVec.extractLsb'_append_eq_right, by omega⟩
  all_goals
    simp only [State.statusByte, BitVec.getLsbD_append]
    simp

/-- Settles O45: of any size but one byte the window selects the row that faults (R127). -/
theorem wideIoAccessesFault : Obligations.WideIoAccessesFault := by
  intro s dir o v h
  have hexec (z) : exec (.ioBadsize dir z o v) s = .next (s.raise .ioAccessSize) := whenRunning_running h
  refine ⟨hexec, fun n hn hv hr ho => ?_⟩
  have hwf : (Instr.ioBadsize dir (SizeCode.ofBytes n) o v).wellFormed = true :=
    Instr.wellFormed_ioBadsize.mpr ⟨SizeCode.ofBytes_eq_one.not.mpr hn, ho, hv, hr⟩
  have hdeliver : deliverable s.cfg (pack .io dir (SizeCode.ofBytes n) o v) n = true := by
    simpa using Nat.lt_succ_of_le ho
  exact (receiveSized_eq_exec h (Selects.ioBadsize hwf).decode_eq (pack_szc _ _ _ _ _) hdeliver).trans (hexec _)

/-! ### The listings of the register block (R120) -/

/-- Only the code of one byte stands for the size 1 (R91). -/
theorem stands_eq_one_iff {z : SizeCode} {n : Nat} (h : Listing.stands z n) : n = 1 ↔ z = .one := by
  cases z with
  | one => exact iff_of_true h rfl
  | two | four => exact iff_of_false (by rintro rfl; cases h) (by decide)
  | other => exact iff_of_false h.1 (by decide)

theorem ioWrite_wide (o v : Nat) {n : Nat} (hn : n ≠ 1) (s : State) :
    Listing.ioWrite o v n s = s.raise .ioAccessSize := if_pos hn

theorem ioRead_wide (o : Nat) {n : Nat} (hn : n ≠ 1) (s : State) : Listing.ioRead o n s = s.raise .ioAccessSize :=
  if_pos hn

theorem ioWrite_zero (v : Byte) (s : State) : Listing.ioWrite 0 v.toNat 1 s =
    if 8 ≤ v.toNat then s.raise .ledReservedBits else (s.setLed v).finish := by
  have hv := v.isLt
  have hreserved : Listing.slice v.toNat 7 3 ≠ 0 ↔ 8 ≤ v.toNat := by rw [Listing.slice]; omega
  simp only [Listing.ioWrite, hreserved, ofNat_slice v 0 2]
  rfl

theorem ioWrite_one (v : Byte) (s : State) : Listing.ioWrite 1 v.toNat 1 s =
    if 0x80 ≤ v.toNat then s.raise .bankSpiReservedBit else (s.setBankSpi v).finish := by
  have hreserved : Listing.slice v.toNat 7 7 = 1 ↔ 0x80 ≤ v.toNat := by
    rw [← bankSpiReserved_iff, ← decide_slice, decide_eq_true_eq]
  simp only [Listing.ioWrite, hreserved, decide_slice, ofNat_slice v 0 3]
  rfl

theorem ioRead_one (s : State) : Listing.ioRead 1 1 s = s.answer (.byte s.statusByte) := by
  simp only [Listing.ioRead, ← statusByte_toNat, Listing.returned, BitVec.ofNat_toNat, BitVec.setWidth_eq]
  rfl

/-- At the offsets the register map leaves undefined the listings ignore a write and return 0. -/
theorem io_undefined (h0 : o ≠ 0) (h1 : o ≠ 1) (v : Nat) (s : State) :
    Listing.ioWrite o.toNat v 1 s = s.finish ∧ Listing.ioRead o.toNat 1 s = s.answer (.byte 0) := by
  have hn0 : o.toNat ≠ 0 := by bv_omega
  have hn1 : o.toNat ≠ 1 := by bv_omega
  simp only [Listing.ioWrite, Listing.ioRead, ne_eq, not_true_eq_false, if_false, if_neg hn0, if_neg hn1]
  exact ⟨rfl, rfl⟩

/-- A one-byte write does what the listing of `IoWrite` says, offset by offset. -/
theorem exec_selectIoWrite (h : s.fault = none) (o : Offset) (v : Byte) :
    exec (selectIoWrite o v) s = .next (Listing.ioWrite o.toNat v.toNat 1 s) := by
  by_cases h0 : o = 0
  · subst h0
    rw [exec_selectIoWrite_zero, exec_iowLed h]
    exact congrArg _ (ioWrite_zero v s).symm
  by_cases h1 : o = 1
  · subst h1
    rw [exec_selectIoWrite_one, exec_iowBankspi h]
    exact congrArg _ (ioWrite_one v s).symm
  rw [selectIoWrite, if_neg h0, if_neg h1, (io_undefined h0 h1 v.toNat s).1]
  exact whenRunning_running h

/-- A one-byte read does what the listing of `IoRead` says, offset by offset. -/
theorem exec_selectIoRead (h : s.fault = none) (o : Offset) :
    exec (selectIoRead o) s = .next (Listing.ioRead o.toNat 1 s) := by
  by_cases h0 : o = 0
  · subst h0
    exact whenRunning_running h
  by_cases h1 : o = 1
  · subst h1
    exact (whenRunning_running h).trans (congrArg _ (ioRead_one s).symm)
  rw [selectIoRead, if_neg h0, if_neg h1, (io_undefined h0 h1 0 s).2]
  exact whenRunning_running h

/-- Settles O22: an I/O descriptor has one of the three formats of the window, and the decoder asks the context of flash
transactions only. -/
theorem registerBlockFollowsTheListing : Obligations.RegisterBlockFollowsTheListing := by
  refine ⟨fun s td i n h hr hd hn => ?_, fun c c' td hr => by simp only [decode, hr]⟩
  have hsize := stands_eq_one_iff hn
  cases decode_eq_ok_iff.mp hd with
  | fwBadsize | frBadsize | fw | fr => simp [fw, fr] at hr
  | @iow o v ho =>
    obtain rfl : n = 1 := hsize.mpr (pack_szc _ _ _ _ _)
    refine ⟨fun _ => ?_, fun hdir => ?_⟩
    · have hvalue : (v.setWidth 32).toNat = v.toNat := by rw [BitVec.toNat_setWidth]; omega
      simpa [Machine.iow, hvalue] using exec_selectIoWrite h o v
    · simp [Machine.iow] at hdir
  | @ior o ho =>
    obtain rfl : n = 1 := hsize.mpr (pack_szc _ _ _ _ _)
    refine ⟨fun hdir => ?_, fun _ => ?_⟩
    · simp [Machine.ior] at hdir
    · simpa [Machine.ior] using exec_selectIoRead h o
  | @ioBadsize dir z o v hwf =>
    have hwide : n ≠ 1 := by simpa [hsize] using (Instr.wellFormed_ioBadsize.mp hwf).1
    rw [ioWrite_wide _ _ hwide, ioRead_wide _ hwide]
    exact ⟨fun _ => whenRunning_running h, fun _ => whenRunning_running h⟩

/-! ### What an operation does to the registers (R128) -/

/-- What executing an operation makes of a state, as far as the registers see it: nothing, or one of the two register
writes (R31, R32). -/
inductive RegisterEffect (s : State) (i : Instr) : State → Prop where
  | keeps (t : State) (same : s.sameRegisters t) : RegisterEffect s i t
  | led (v : Byte) (write : i = .iowLed v) : RegisterEffect s i (s.setLed v).finish
  | bankSpi (v : Byte) (write : i = .iowBankspi v) : RegisterEffect s i (s.setBankSpi v).finish

theorem sameRegisters_refl (s : State) : s.sameRegisters s := ⟨rfl, rfl, rfl, rfl, rfl, rfl, rfl, rfl⟩

/-- A translating access changes a register only where the access does. -/
theorem sameRegisters_withTranslation {l n : Nat} {f : Nat → State} (hf : ∀ p, s.sameRegisters (f p)) :
    s.sameRegisters (withTranslation s l n f) := by
  obtain ⟨-, h⟩ | ⟨b, -, -, h⟩ | ⟨b, -, -, -, h⟩ := withTranslation_cases s l n f <;> rw [h]
  · exact sameRegisters_refl s
  · exact sameRegisters_refl s
  · exact hf _

/-- A register write completes as its row says, or faults and keeps the registers. -/
theorem RegisterEffect.raiseOr {p : Prop} [Decidable p] {k : FaultKind} (h : RegisterEffect s i t) :
    RegisterEffect s i (if p then s.raise k else t) := by
  split
  · exact .keeps _ (sameRegisters_refl s)
  · exact h

/-- What completes behind the gate has the effect of what it gates. -/
theorem RegisterEffect.ofGate {u : State} (h : whenRunning s (.next u) = .next t) (hu : RegisterEffect s i u) :
    RegisterEffect s i t := by
  obtain ⟨-, heq⟩ := whenRunning_eq_next.mp h
  cases heq
  exact hu

/-- An operation writes a register only as one of the two register writes. -/
theorem exec_registers (h : exec i s = .next t) : RegisterEffect s i t := by
  cases i with
  | iowLed v => exact RegisterEffect.ofGate h (.raiseOr (.led v rfl))
  | iowBankspi v => exact RegisterEffect.ofGate h (.raiseOr (.bankSpi v rfl))
  | frArray => exact RegisterEffect.ofGate h (.keeps _ (sameRegisters_withTranslation fun _ => sameRegisters_refl s))
  | fwProgData =>
    exact RegisterEffect.ofGate h (.keeps _ (sameRegisters_withTranslation fun _ => by simp [State.sameRegisters]))
  | _ => exact RegisterEffect.ofGate h (.keeps _ (sameRegisters_refl s))

/-- Settles O46: an operation of the window keeps the position and stores nothing, and the registers see only the two
register writes. -/
theorem registersAndSequencerAreIndependent : Obligations.RegistersAndSequencerAreIndependent := by
  refine ⟨fun i s t hio h => ⟨?_, ?_⟩, fun i s t hio h => ?_, fun i s t h hne => ?_, fun i s t h hne => ?_,
    fun i s t h => ?_⟩
  · obtain hpos | ⟨-, k, rfl⟩ := (exec_executed h).2.position_or_raise
    · rw [hpos, Instr.nextPosition_of_ofIoWindow _ hio]
    · rfl
  · refine (operationsThatStoreNothingLeaveEveryByte i s t ?_ h).1
    rintro o d rfl
    cases hio
  · cases exec_registers h with
    | keeps _ same => exact same
    | led v write | bankSpi v write => subst write; cases hio
  · cases exec_registers h with
    | keeps _ same =>
      obtain ⟨-, hbank, -⟩ := same
      exact absurd hbank hne
    | led => exact absurd rfl hne
    | bankSpi v write => exact ⟨v, write, rfl⟩
  · cases exec_registers h with
    | keeps _ same =>
      obtain ⟨hled, -⟩ := same
      exact absurd hled hne
    | led v write => exact ⟨v, write⟩
    | bankSpi => exact absurd rfl hne
  · cases exec_registers h with
    | keeps _ same =>
      obtain ⟨-, -, -, -, -, hstatus⟩ := same
      exact hstatus
    | led | bankSpi => exact ⟨rfl, rfl, rfl⟩

end Machine

end Sys2Proof

/-! ### Settling the family 41_flash_commands.md

What a flash write of a legal size runs is said once, by the four answers of the decoder: a datum in `Writing`, the
universal reset, a command of the cycle, and everything else, which is ignored. The statements of one command are these
lemmas at its cycle, offset and value; O20 compares the same four answers with the branches of R140's listing. -/

namespace Sys2Proof

open Machine

variable {c : Position} {k : Cycle} {o : Offset} {v : Byte} {d : Datum} {i : Instr}

/-! ### The four answers of the decoder to a flash write (R101) -/

theorem selectFlashWrite_writing (h : c.mode = .writing) (o : Offset) (d : Datum) :
    selectFlashWrite c o d = .fwProgData o d := if_pos h

theorem selectFlashWrite_reset (h : c.mode ≠ .writing) : selectFlashWrite c 0x00 (.byte 0xF0) = .fwReset :=
  (if_neg h).trans (if_pos ⟨rfl, rfl⟩)

/-- In `Normal` a byte that is not the reset's goes to the cycle parser. -/
theorem selectFlashWrite_normal (hm : c.mode = .normal) (hreset : ¬ (o = 0x00 ∧ Datum.byte v = .byte 0xF0)) :
    selectFlashWrite c o (.byte v) = (parseCommand c.cycle o v).getD (.fwIgnored o (.byte v)) :=
  (if_neg (by simp [hm])).trans ((if_neg hreset).trans (if_neg (not_not.mpr hm)))

theorem selectFlashWrite_command (h : Command k o v i) : selectFlashWrite ⟨.normal, k⟩ o (.byte v) = i := by
  rw [selectFlashWrite_normal rfl fun e => h.ne_reset (Datum.byte.inj e.2), parseCommand_eq_some_iff.mpr h]
  rfl

/-- In `Normal` the datum is no command of the cycle. -/
def Unmatched (c : Position) (o : Offset) (d : Datum) : Prop :=
  c.mode = .normal → ∀ v, d = .byte v → parseCommand c.cycle o v = none

theorem selectFlashWrite_unmatched (hw : c.mode ≠ .writing) (hreset : ¬ (o = 0x00 ∧ d = .byte 0xF0))
    (hu : Unmatched c o d) : selectFlashWrite c o d = .fwIgnored o d := by
  unfold selectFlashWrite
  rw [if_neg hw, if_neg hreset]
  split_ifs with hn
  · rfl
  · cases d with
    | byte v => simp [hu (not_not.mp hn) v rfl]
    | half | word => rfl

/-- In the hold modes nothing is a command (R143). -/
theorem unmatched_of_ne_normal (h : c.mode ≠ .normal) (o : Offset) (d : Datum) : Unmatched c o d :=
  fun hn => absurd hn h

/-- Only a one-byte datum is a command (R141). -/
theorem unmatched_of_size (c : Position) (o : Offset) (h : d.size ≠ .one) : Unmatched c o d := by
  rintro - v rfl
  exact absurd rfl h

/-- A byte that no row of R97 has at the cycle is no command. -/
theorem parseCommand_eq_none_of_rows
    (h : ∀ r ∈ commandRows, r.cycle = k → r.value = v → r.offset ≠ some o ∧ r.offset ≠ none) :
    parseCommand k o v = none := by
  by_contra hp
  obtain ⟨i, hi⟩ := Option.ne_none_iff_exists'.mp hp
  obtain ⟨r, hr, hadmits⟩ := List.any_eq_true.mp (parseCommand_eq_some_iff.mp hi).admits
  simp only [CommandRow.admits, Bool.and_eq_true, Bool.or_eq_true, decide_eq_true_eq, Option.isNone_iff_eq_none,
    Datum.byte.injEq] at hadmits
  obtain ⟨⟨hk, ho⟩, hv⟩ := hadmits
  obtain ⟨hsome, hnone⟩ := h r hr hk hv.symm
  exact ho.elim hnone hsome

/-- The three commands of cycle 3 are commands of no other cycle. -/
theorem parseCommand_of_ne_three (hk : k ≠ .three) (hv : v = 0x80 ∨ v = 0x90 ∨ v = 0xA0) :
    parseCommand k 0xAAAA v = none := by
  cases k with
  | three => exact absurd rfl hk
  | _ => rcases hv with rfl | rfl | rfl <;> rfl

/-- The byte of the reset is no command, whatever the offset. -/
theorem parseCommand_reset (k : Cycle) (o : Offset) : parseCommand k o 0xF0 = none := by
  by_contra hp
  obtain ⟨i, hi⟩ := Option.ne_none_iff_exists'.mp hp
  exact (parseCommand_eq_some_iff.mp hi).ne_reset rfl

/-- Two writes differ in the offset or in the datum, as the statements say it. -/
theorem not_write_iff {a : Offset} {e : Datum} : ¬ (o = a ∧ d = e) ↔ d ≠ e ∨ o ≠ a := by
  rw [not_and_or, or_comm]

/-- Of a write that is not the byte `b` at `a`, the parser's test for that command fails. -/
theorem byte_test_fails {a : Offset} {b : Byte} (h : d ≠ .byte b ∨ o ≠ a) (hd : d = .byte v) :
    ¬ (o = a ∧ v = b) := by
  rintro ⟨ho, rfl⟩
  exact not_write_iff.mpr h ⟨ho, hd⟩

/-- In a hold mode the decoder answers the reset or FW.IGNORED (R143). -/
theorem decode_fw_hold {m : Mode} (hw : m ≠ .writing) (hn : m ≠ .normal) (k : Cycle) (o : Offset) (d : Datum) :
    (decode ⟨m, k⟩ (fw o d) = .ok .fwReset ↔ o = 0x00 ∧ d = .byte 0xF0) ∧
      (¬ (o = 0x00 ∧ d = .byte 0xF0) → decode ⟨m, k⟩ (fw o d) = .ok (.fwIgnored o d)) := by
  have hignored (hreset : ¬ (o = 0x00 ∧ d = .byte 0xF0)) : decode ⟨m, k⟩ (fw o d) = .ok (.fwIgnored o d) := by
    rw [decode_fw, selectFlashWrite_unmatched hw hreset (unmatched_of_ne_normal hn o d)]
  refine ⟨⟨fun h => ?_, ?_⟩, hignored⟩
  · by_contra hreset
    rw [hignored hreset] at h
    cases h
  · rintro ⟨rfl, rfl⟩
    rw [decode_fw, selectFlashWrite_reset hw]

/-- A datum fits its size (R67). -/
theorem Datum.toNat_lt (d : Datum) : d.toNat < 2 ^ (8 * d.size.bytes) := by
  cases d <;> exact BitVec.isLt _

/-- A datum is the datum of its size and value. -/
theorem Datum.datumOf_toNat (d : Datum) : d.size.datumOf d.toNat = d := by
  cases d <;> simp [Datum.size, Datum.toNat, Size.datumOf]

/-- The value field of a datum is its value (R91). -/
theorem Datum.field_toNat (d : Datum) : d.field.toNat = d.toNat := by
  cases d with
  | byte v | half v => simp only [Datum.field, Datum.toNat, BitVec.toNat_setWidth]; omega
  | word v => rfl

/-- The reads keep the position (R171). -/
theorem Instr.nextPosition_of_reads (c : Position) (h : i.reads = true) : i.nextPosition c = c := by
  cases i with
  | frBadsize | frArray | frCfi | frId | frBusy | iorId | iorStatus | iorUndef | ioBadsize => rfl
  | _ => cases h

namespace Machine

variable {s t : State}

/-! ### Positions and moves -/

/-- A move to the position a state is at changes nothing. -/
theorem moveTo_position {m : Mode} (h : s.position = ⟨m, k⟩) : s.moveTo m k = s := by
  obtain ⟨rfl, rfl⟩ := Position.mk.inj h
  rfl

/-- An operation that leads nowhere else keeps the position, whether or not it faults. -/
theorem exec_keeps_position (hi : i.nextPosition s.position = s.position) (h : exec i s = .next t) :
    t.position = s.position := by
  obtain hpos | ⟨-, k, rfl⟩ := (exec_executed h).2.position_or_raise
  · rw [hpos, hi]
  · rfl

/-- The reads and the operations of the I/O window keep the position and FLASH (R140, R120). -/
theorem exec_outside_flashWrites (hi : i.reads = true ∨ i.ofIoWindow = true) (h : exec i s = .next t) :
    t.position = s.position ∧ t.flash = s.flash := by
  refine ⟨exec_keeps_position ?_ h, ?_⟩
  · exact hi.elim (Instr.nextPosition_of_reads _) (Instr.nextPosition_of_ofIoWindow _)
  · cases (exec_executed h).2 with
    | faults => rfl
    | commits o d b prog => subst prog; exact hi.elim nofun nofun
    | moves _ _ flash => exact flash

/-- Nor does an ignored write leave the mode. -/
theorem exec_keeps_mode (hi : i.reads = true ∨ i.ofIoWindow = true ∨ ∃ o d, i = .fwIgnored o d)
    (h : exec i s = .next t) : t.mode = s.mode := by
  obtain hi | hi | ⟨o, d, rfl⟩ := hi
  · exact congrArg Position.mode (exec_outside_flashWrites (.inl hi) h).1
  · exact congrArg Position.mode (exec_outside_flashWrites (.inr hi) h).1
  · exact congrArg Position.mode (exec_keeps_position rfl h)

/-! ### What a flash write runs -/

theorem receive_fw (h : s.fault = none) (hwin : s.cfg.inFlashWindow o.toNat d.size.bytes = true) :
    s.receive (fw o d) = exec (selectFlashWrite s.position o d) s :=
  receive_eq_exec h (decode_fw s.position o d) (by simpa [fw] using hwin)

/-- A command of the current cycle runs (R97). -/
theorem receive_command (hc : Command k o v i) (h : s.fault = none) (hp : s.position = ⟨.normal, k⟩)
    (hwin : s.cfg.inFlashWindow o.toNat 1 = true) : s.receive (fw1 o v) = exec i s := by
  refine (receive_fw (d := .byte v) h hwin).trans ?_
  rw [hp, selectFlashWrite_command hc]

/-- A command moves the sequencer as its row says, and does nothing else. -/
theorem exec_command (hc : Command k o v i) (h : s.fault = none) :
    exec i s = .next (s.moveTo (i.nextPosition s.position).mode (i.nextPosition s.position).cycle).finish := by
  cases hc <;> exact whenRunning_running h

/-- Issued at its cycle, a command moves the sequencer from there. -/
theorem receive_command_moves (hc : Command k o v i) (h : s.fault = none) (hp : s.position = ⟨.normal, k⟩)
    (hwin : s.cfg.inFlashWindow o.toNat 1 = true) : s.receive (fw1 o v) =
      .next (s.moveTo (i.nextPosition ⟨.normal, k⟩).mode (i.nextPosition ⟨.normal, k⟩).cycle).finish := by
  rw [receive_command hc h hp hwin, exec_command hc h, hp]

theorem receive_reset (h : s.fault = none) (hw : s.mode ≠ .writing) :
    s.receive resetCommand = .next (s.moveTo .normal .one).finish := by
  refine (receive_fw (o := 0x00) (d := .byte 0xF0) h rfl).trans ?_
  rw [selectFlashWrite_reset hw]
  exact whenRunning_running h

/-- With a program armed and a usable bank the word of the reset is a datum at the bank's first byte (R142 (d)). -/
theorem receive_reset_writing {b : BankDescriptor} (h : s.fault = none) (hm : s.mode = .writing)
    (hb : s.selectedBank = some b) :
    s.receive resetCommand = .next ((s.memWrite (translate 0 b) 1 0xF0).moveTo .normal .one).finish :=
  receive_fw_commit (o := 0x00) (d := .byte 0xF0) h hm hb (aligned_fits (n := .one) rfl b) rfl

/-- Outside `Writing` a write that is neither the reset nor a command of the cycle changes nothing (R154). -/
theorem receive_unmatched (h : s.fault = none) (hw : s.mode ≠ .writing) (hreset : ¬ (o = 0x00 ∧ d = .byte 0xF0))
    (hu : Unmatched s.position o d) (hwin : s.cfg.inFlashWindow o.toNat d.size.bytes = true) :
    s.receive (fw o d) = .next s.finish := by
  rw [receive_fw h hwin, selectFlashWrite_unmatched hw hreset hu]
  exact whenRunning_running h

/-- In `Normal`, said with the cycle parser. -/
theorem receive_normal_unmatched (h : s.fault = none) (hp : s.position = ⟨.normal, k⟩)
    (hreset : d ≠ .byte 0xF0 ∨ o ≠ 0x00) (hu : ∀ v, d = .byte v → parseCommand k o v = none)
    (hwin : s.cfg.inFlashWindow o.toNat d.size.bytes = true) : s.receive (fw o d) = .next s.finish := by
  obtain ⟨hm, rfl⟩ := Position.mk.inj hp
  exact receive_unmatched h (by simp [hm]) (not_write_iff.mpr hreset) (fun _ => hu) hwin

/-- In a hold mode every write but the reset changes nothing (R143). -/
theorem receive_hold (h : s.fault = none) (hw : s.mode ≠ .writing) (hn : s.mode ≠ .normal)
    (hreset : ¬ (o = 0x00 ∧ d = .byte 0xF0)) (hwin : s.cfg.inFlashWindow o.toNat d.size.bytes = true) :
    s.receive (fw o d) = .next s.finish :=
  receive_unmatched h hw hreset (unmatched_of_ne_normal hn o d) hwin

/-- Writes that are ignored one by one are ignored in sequence. -/
theorem receiveAll_ignored {tds : List TD} (hne : tds ≠ []) (h : s.fault = none)
    (hig : ∀ t : State, t.fault = none → t.mode = s.mode → ∀ td ∈ tds, t.receive td = .next t.finish) :
    s.receiveAll tds = .next s.finish := by
  induction tds generalizing s with
  | nil => exact absurd rfl hne
  | cons td rest ih =>
    rw [receiveAll_cons (hig s h rfl td List.mem_cons_self)]
    cases rest with
    | nil => rfl
    | cons td' rest =>
      exact ih (List.cons_ne_nil _ _) h fun t ht hm td htd => hig t ht hm td (List.mem_cons_of_mem _ htd)

/-- Settles O7: the step finds nothing to do. -/
theorem stepWithNothingIssuedChangesNothing : Obligations.StepWithNothingIssuedChangesNothing := by
  intro s h hb
  rw [step, fetch_idle h hb]
  rfl

/-! ### The reset and the hold modes (R142, R143) -/

/-- Settles O23: the word of the reset in and outside `Writing`, and the writes that only resemble it. -/
theorem universalResetReturnsToNormalCycleOne : Obligations.UniversalResetReturnsToNormalCycleOne := by
  intro s h
  refine ⟨whenRunning_running h, fun hw => receive_reset h hw, fun hm b hb => ?_, fun hw o ho hwin => ?_,
    fun hw => ?_, fun hw hn _ _ => receive_hold h hw hn⟩
  · refine ⟨_, receive_reset_writing h hm hb, rfl, ?_, fun a ha => ?_⟩
    · exact flashByte_memWrite_inside s (translate 0 b) 0xF0 Nat.one_pos
    · exact flashByte_memWrite_outside s 0xF0 (by omega)
  · refine receive_unmatched (d := .byte 0xF0) h hw (fun e => ho e.1) ?_ hwin
    rintro - v hv
    cases hv
    exact parseCommand_reset s.cycle o
  · exact receive_unmatched (o := 0x00) (d := .half 0x00F0) h hw (by simp) (unmatched_of_size _ _ (by decide)) rfl

/-- The writes of an unlock sequence, a CFI query and an autoselect sequence (R106) as offsets and bytes. -/
def entryWrites : List (Offset × Byte) :=
  [(0xAAAA, 0xAA), (0x5555, 0x55), (0xAA, 0x98), (0xAAAA, 0xAA), (0x5555, 0x55), (0xAAAA, 0x90)]

theorem entryWrites_eq : unlock ++ cfiEnter ++ autoselect = entryWrites.map fun w => fw1 w.1 w.2 := rfl

/-- None of them is the reset, and all lie inside the least flash window. -/
theorem entryWrites_legal : ∀ w ∈ entryWrites, w ≠ (0x00, 0xF0) ∧ insideWindow flashWindowMin w.1.toNat 1 = true := by
  simp [entryWrites, insideWindow, flashWindowMin]

/-- Settles O24: every write is ignored one by one, so the sequences are ignored in full. -/
theorem holdModesIgnoreEveryWriteButTheReset : Obligations.HoldModesIgnoreEveryWriteButTheReset := by
  intro s h hold
  have hw : s.mode ≠ .writing := by rintro hm; simp [hm] at hold
  have hn : s.mode ≠ .normal := by rintro hm; simp [hm] at hold
  refine ⟨fun o d hne => receive_hold h hw hn (not_write_iff.mpr hne.symm), ?_⟩
  rw [entryWrites_eq]
  refine receiveAll_ignored (by decide) h fun t ht hm td htd => ?_
  obtain ⟨⟨o, v⟩, hmem, rfl⟩ := List.mem_map.mp htd
  obtain ⟨hreset, hin⟩ := entryWrites_legal _ hmem
  rw [← hm] at hw hn
  refine receive_hold (d := .byte v) ht hw hn ?_ (Bool.or_eq_true_iff.mpr (.inl hin))
  rintro ⟨rfl, ⟨⟩⟩
  exact hreset rfl

/-! ### The commands of the cycle (R144 to R152) -/

/-- The word of a command, at a cycle of `Normal` whose parser does not know it. -/
theorem receive_fw1_unmatched (h : s.fault = none) (hm : s.mode = .normal) (hreset : ¬ (o = 0x00 ∧ v = 0xF0))
    (hu : parseCommand s.cycle o v = none) (hwin : s.cfg.inFlashWindow o.toNat 1 = true) :
    s.receive (fw1 o v) = .next s.finish := by
  refine receive_normal_unmatched (d := .byte v) (k := s.cycle) h (by rw [position_mk, hm]) ?_ ?_ hwin
  · exact not_write_iff.mp fun e => hreset ⟨e.1, Datum.byte.inj e.2⟩
  · rintro _ ⟨⟩
    exact hu

/-- Settles O25: the query at its cycle and at the others, and what `QueryCFI` makes of reads and writes. -/
theorem cfiQueryEntersQueryCfi : Obligations.CfiQueryEntersQueryCfi := by
  intro s h
  refine ⟨exec_command .cfiq h, fun hp => receive_command_moves .cfiq h hp rfl, fun hm hk => ?_,
    fun c n o => decode_fr _ o n, fun c o d => decode_fw_hold (by decide) (by decide) c o d,
    fun i t hm hi hx => (exec_keeps_mode hi hx).trans hm⟩
  refine receive_fw1_unmatched (o := 0xAA) (v := 0x98) h hm (by decide) ?_ rfl
  cases hc : s.cycle with
  | one => exact absurd hc hk
  | _ => rfl

/-- Settles O26: the word is `Command.unlock1` at cycle 1 and `Command.unlock3` at cycle 4, and the parser knows it at
no other cycle; at cycle 4 it knows no other byte. -/
theorem firstAndThirdUnlockStepsAdvance : Obligations.FirstAndThirdUnlockStepsAdvance := by
  intro s h
  have hexec1 := exec_command .unlock1 h
  have hexec3 := exec_command .unlock3 h
  refine ⟨hexec1, hexec3, fun hp => (receive_command .unlock1 h hp rfl).trans hexec1,
    fun hp => (receive_command .unlock3 h hp rfl).trans hexec3, fun hm h1 h4 => ?_,
    fun hp o d hne hreset =>
      receive_normal_unmatched h hp hreset fun v hd => if_neg (byte_test_fails hne hd)⟩
  refine receive_fw1_unmatched (o := 0xAAAA) (v := 0xAA) h hm (by decide) ?_ rfl
  cases hc : s.cycle with
  | one => exact absurd hc h1
  | four => exact absurd hc h4
  | _ => rfl

/-- Settles O27: the word is `Command.unlock2` at cycle 2 and `Command.unlock4` at cycle 5, and the parser knows it at
no other cycle; at these two it knows no other byte. -/
theorem secondAndFourthUnlockStepsAdvance : Obligations.SecondAndFourthUnlockStepsAdvance := by
  intro s h
  have hexec2 := exec_command .unlock2 h
  have hexec4 := exec_command .unlock4 h
  refine ⟨hexec2, hexec4, fun hp => (receive_command .unlock2 h hp rfl).trans hexec2,
    fun hp => (receive_command .unlock4 h hp rfl).trans hexec4, fun hm h2 h5 => ?_, fun hp o d hne hreset hwin => ?_⟩
  · refine receive_fw1_unmatched (o := 0x5555) (v := 0x55) h hm (by decide) ?_ rfl
    cases hc : s.cycle with
    | two => exact absurd hc h2
    | five => exact absurd hc h5
    | _ => rfl
  · obtain hp | hp := hp
    · exact receive_normal_unmatched h hp hreset (fun v hd => if_neg (byte_test_fails hne hd)) hwin
    · exact receive_normal_unmatched h hp hreset (fun v hd => if_neg (byte_test_fails hne hd)) hwin

/-- Settles O28: the word is a command of cycle 3 only. -/
theorem eraseSetupAdvancesToCycleFour : Obligations.EraseSetupAdvancesToCycleFour := by
  intro s h
  have hexec := exec_command .eraseSetup h
  refine ⟨hexec, fun hp => (receive_command .eraseSetup h hp rfl).trans hexec, fun hm hk => ?_,
    fun c n o => decode_fr _ o n⟩
  exact receive_fw1_unmatched (o := 0xAAAA) (v := 0x80) h hm (by decide) (parseCommand_of_ne_three hk (.inl rfl)) rfl

/-- Settles O29: the word is a command of cycle 3 only; reads and ignored writes keep the mode. -/
theorem autoselectCommandEntersAutoselect : Obligations.AutoselectCommandEntersAutoselect := by
  intro s h
  refine ⟨exec_command .autosel h, fun hp => receive_command_moves .autosel h hp rfl, fun hm hk => ?_,
    fun c n o => decode_fr _ o n, fun c o d => decode_fw_hold (by decide) (by decide) c o d,
    fun i t hm hi hx => (exec_keeps_mode hi hx).trans hm⟩
  have hu := parseCommand_of_ne_three hk (.inr (.inl rfl))
  exact receive_fw1_unmatched (o := 0xAAAA) (v := 0x90) h hm (by decide) hu rfl

/-- Settles O30: the word is a command of cycle 3 only and at its offset only; `Writing` takes every write as
the datum. -/
theorem programSetupEntersWriting : Obligations.ProgramSetupEntersWriting := by
  intro s h
  refine ⟨exec_command .progSetup h, fun hp => receive_command_moves .progSetup h hp rfl,
    fun hp o ho hwin => ?_, fun hm hk => ?_, fun c o d => decode_fw _ o d, fun c n o => decode_fr _ o n,
    fun i t hm hi hx => ?_⟩
  · obtain ⟨hm, hk⟩ := Position.mk.inj hp
    refine receive_fw1_unmatched h hm (fun e => absurd e.2 (by decide)) ?_ hwin
    rw [hk]
    simp only [parseCommand, ho, false_and, if_false]
  · have hu := parseCommand_of_ne_three hk (.inr (.inr rfl))
    exact receive_fw1_unmatched (o := 0xAAAA) (v := 0xA0) h hm (by decide) hu rfl
  · exact (congrArg Position.mode (exec_outside_flashWrites hi hx).1).trans hm

/-- Settles O31: at cycle 6 the parser asks the byte alone, and the command moves the sequencer only. -/
theorem sectorEraseIsAcceptedAndErasesNothing : Obligations.SectorEraseIsAcceptedAndErasesNothing := by
  intro s h
  have hexec (o) := exec_command (.sectorErase o) h
  refine ⟨hexec, fun hp o hwin => (receive_command (.sectorErase o) h hp hwin).trans (hexec o),
    fun hp o d hne hreset hwin => ?_, fun c n o => decode_fr _ o n⟩
  refine receive_normal_unmatched h hp hreset ?_ hwin
  rintro v rfl
  exact if_neg fun e => hne (congrArg _ e)

/-- Settles O33: none of the three families of writes is a command of its position. -/
theorem unmatchedWritesAreIgnored : Obligations.UnmatchedWritesAreIgnored := by
  intro s h
  refine ⟨fun o d => whenRunning_running h, fun hw o d hsize hwin => ?_, fun hm o v hreset hrows hwin => ?_,
    fun hw hn _ _ => receive_hold h hw hn⟩
  · refine receive_unmatched h hw ?_ (unmatched_of_size _ o hsize) hwin
    rintro ⟨-, rfl⟩
    exact hsize rfl
  · exact receive_fw1_unmatched h hm hreset (parseCommand_eq_none_of_rows hrows) hwin

/-- Settles O34: the code 3 is decoded before the mode is asked, and every other size has it. -/
theorem unsupportedFlashSizesFault : Obligations.UnsupportedFlashSizesFault := by
  intro s h
  have hwrite (o v) : exec (.fwBadsize o v) s = .next (s.raise .flashAccessSize) := whenRunning_running h
  have hread (o) : exec (.frBadsize o) s = .next (s.raise .flashAccessSize) := whenRunning_running h
  refine ⟨hwrite, hread, fun c o v => decode_flash_write c .other o v, fun c o => decode_flash_read c .other o,
    fun n h1 h2 h4 o hwin => ?_⟩
  have hz (dir v) : (pack .flash dir .other o v).szc = SizeCode.ofBytes n :=
    (pack_szc _ _ _ _ _).trans (SizeCode.ofBytes_eq_other.mpr ⟨h1, h2, h4⟩).symm
  have hin (dir v) : deliverable s.cfg (pack .flash dir .other o v) n = true := (deliverable_flash ..).trans hwin
  exact ⟨fun v => (receiveSized_eq_exec h (decode_flash_write _ _ o v) (hz _ _) (hin _ _)).trans (hwrite o v),
    (receiveSized_eq_exec h (decode_flash_read _ _ o) (hz _ _) (hin _ _)).trans (hread o)⟩

/-! ### The program datum (R153) -/

theorem exec_fwProgData (h : s.fault = none) (o : Offset) (d : Datum) : exec (.fwProgData o d) s =
    .next (withTranslation s o.toNat d.size.bytes fun p =>
      ((s.memWrite p d.size.bytes d.toNat).moveTo .normal .one).finish) := whenRunning_running h

theorem withTranslation_of_no_bank (hb : 10 < s.bank.toNat) (l n : Nat) (f : Nat → State) :
    withTranslation s l n f = s.raise .bankIndex := by
  simp only [withTranslation, selectedBank_eq_none.mpr hb]

/-- Settles O32: the three cases of a translating access, and the rules of MemWrite for the bytes of the datum. -/
theorem programDatumIsStored : Obligations.ProgramDatumIsStored := by
  intro s o d h
  refine ⟨fun hm hwin => ?_, fun hb => ?_, fun b hb hspan => ?_, fun b hb hfit => ?_, fun b o' hb hmirror => ?_⟩
  · rw [receive_fw h hwin, selectFlashWrite_writing hm]
  · rw [exec_fwProgData h, withTranslation_of_no_bank hb]
    rfl
  · rw [exec_fwProgData h, withTranslation_of_bank hb, if_pos hspan]
    rfl
  · rw [exec_fwProgData h, withTranslation_of_bank hb, if_neg (Nat.not_lt.mpr hfit)]
    refine ⟨_, rfl, rfl, by simpa using h, rfl, fun k hk => ?_, fun a ha => ?_, by simp [State.sameRegisters],
      by simp [State.sameSurroundings]⟩
    · exact flashByte_memWrite_inside s _ _ hk
    · exact flashByte_memWrite_outside s _ ha
  · rw [exec_fwProgData h, exec_fwProgData h, withTranslation_of_bank hb, withTranslation_of_bank hb, translate,
      translate, hmirror]

/-! ### Sequences of commands (R106, R157) -/

/-- From `(Normal, 1)` the unlock sequence leads to `(Normal, 3)` (R145, R146). -/
theorem receiveAll_unlock (h : s.fault = none) (hp : s.position = ⟨.normal, .one⟩) (rest : List TD) :
    s.receiveAll (unlock ++ rest) = (s.moveTo .normal .three).finish.receiveAll rest :=
  (receiveAll_cons (receive_command_moves .unlock1 h hp rfl)).trans
    (receiveAll_cons (receive_command_moves .unlock2 (s := (s.moveTo .normal .two).finish) h rfl rfl))

/-- The six writes of the erase sequence, before whatever follows them. -/
theorem receiveAll_sectorErase (h : s.fault = none) (hp : s.position = ⟨.normal, .one⟩)
    (hwin : s.cfg.inFlashWindow o.toNat 1 = true) (rest : List TD) :
    s.receiveAll (sectorErase o ++ rest) = (s.moveTo .sectorErase .one).finish.receiveAll rest := by
  have hsetup := receive_command_moves .eraseSetup (s := (s.moveTo .normal .three).finish) h rfl rfl
  have hunlock3 := receive_command_moves .unlock3 (s := (s.moveTo .normal .four).finish) h rfl rfl
  have hunlock4 := receive_command_moves .unlock4 (s := (s.moveTo .normal .five).finish) h rfl rfl
  have herase := receive_command_moves (.sectorErase o) (s := (s.moveTo .normal .six).finish) h rfl hwin
  calc s.receiveAll (sectorErase o ++ rest)
    _ = (s.moveTo .normal .three).finish.receiveAll _ := receiveAll_unlock h hp _
    _ = (s.moveTo .normal .four).finish.receiveAll _ := receiveAll_cons hsetup
    _ = (s.moveTo .normal .five).finish.receiveAll _ := receiveAll_cons hunlock3
    _ = (s.moveTo .normal .six).finish.receiveAll _ := receiveAll_cons hunlock4
    _ = (s.moveTo .sectorErase .one).finish.receiveAll rest := receiveAll_cons herase

/-- Settles O54: the six commands one after another; the reset then leads back to the position before them. -/
theorem eraseSequenceEndsInSectorErase : Obligations.EraseSequenceEndsInSectorErase := by
  intro s o h hp hwin
  refine ⟨?_, ?_⟩
  · exact (congrArg s.receiveAll (List.append_nil _).symm).trans (receiveAll_sectorErase h hp hwin [])
  · have hreset := receive_reset (s := (s.moveTo .sectorErase .one).finish) h nofun
    rw [receiveAll_sectorErase h hp hwin, receiveAll_cons hreset, receiveAll_nil]
    change Host.Outcome.next (s.moveTo .normal .one).finish = _
    rw [moveTo_position hp]
    rfl

/-- A datum programmed in a usable bank is committed at `(Normal, 1)`, whatever it spells (R157 (c)). -/
theorem receiveAll_program {b : BankDescriptor} (h : s.fault = none) (hp : s.position = ⟨.normal, .one⟩)
    (hb : s.selectedBank = some b) (hfit : o.toNat % b.size + d.size.bytes ≤ b.size)
    (hwin : s.cfg.inFlashWindow o.toNat d.size.bytes = true) :
    s.receiveAll (program o d) =
      .next (((s.moveTo .writing .three).finish.memWrite (translate o.toNat b) d.size.bytes d.toNat).moveTo
        .normal .one).finish := by
  have hsetup := receive_command_moves .progSetup (s := (s.moveTo .normal .three).finish) h rfl rfl
  have hcommit := receive_fw_commit (s := (s.moveTo .writing .three).finish) h rfl hb hfit hwin
  calc s.receiveAll (program o d)
    _ = (s.moveTo .normal .three).finish.receiveAll _ := receiveAll_unlock h hp _
    _ = (s.moveTo .writing .three).finish.receiveAll _ := receiveAll_cons hsetup
    _ = _ := receiveAll_cons hcommit

/-- In `Normal` with a usable bank a read inside the bank window hands the stored bytes back (R172). -/
theorem receive_fr_array {n : Size} {b : BankDescriptor} (h : s.fault = none) (hm : s.mode = .normal)
    (hb : s.selectedBank = some b) (hfit : o.toNat % b.size + n.bytes ≤ b.size)
    (hwin : s.cfg.inFlashWindow o.toNat n.bytes = true) :
    s.receive (fr n o) = .next (s.answer (n.datumOf (s.memRead (translate o.toNat b) n.bytes))) := by
  have hd : decode s.position (fr n o) = .ok (.frArray o n) := by rw [decode_fr, position_mk, hm]; rfl
  rw [receive_eq_exec h hd (by simpa [fr] using hwin)]
  refine (whenRunning_running h).trans (congrArg _ ?_)
  rw [withTranslation_of_bank hb, if_neg (Nat.not_lt.mpr hfit)]

/-- Settles O55: the four writes commit the datum, and MemRead returns what MemWrite stored. -/
theorem programRoundTrip : Obligations.ProgramRoundTrip := by
  intro s o d b h hp hb hfit hwin
  refine ⟨_, receiveAll_program h hp hb hfit hwin, rfl, ?_⟩
  have hread := (memReadReturnsWhatMemWriteStored.2 (s.moveTo .writing .three).finish (translate o.toNat b)
    d.size.bytes d.toNat d.toNat_lt).1
  refine (receive_fr_array (b := b) (by simpa using h) rfl ?_ hfit (by simpa using hwin)).trans ?_
  · exact (selectedBank_congr (by simp) (by simp)).trans hb
  · have hsame (u : State) (p n : Nat) : (u.moveTo .normal .one).finish.memRead p n = u.memRead p n :=
      memRead_congr p n fun _ _ _ => rfl
    rw [hsame, hread, Datum.datumOf_toNat]
    rfl

/-- From `(Normal, 1)` the reset changes nothing. -/
theorem receive_reset_at_start (h : s.fault = none) (hp : s.position = ⟨.normal, .one⟩) :
    s.receive resetCommand = .next { s with response := .nothing } := by
  have hm : s.mode = .normal := congrArg Position.mode hp
  rw [receive_reset h (by simp [hm]), moveTo_position hp]
  rfl

/-- Settles O56: the first write is the datum in `Writing` and the reset elsewhere; the second is the reset. -/
theorem resetWritesReachNormalCycleOne : Obligations.ResetWritesReachNormalCycleOne := by
  intro s b h hb
  by_cases hm : s.mode = .writing
  · refine ⟨_, receive_reset_writing h hm hb, rfl, receive_reset_at_start (by simpa using h) rfl, fun _ => ?_,
      fun hw => absurd hm hw⟩
    exact flashByte_memWrite_inside s (translate 0 b) 0xF0 Nat.one_pos
  · exact ⟨_, receive_reset h hm, rfl, receive_reset_at_start h rfl, fun hw => absurd hw hm, fun _ _ => rfl⟩

/-! ### The listing of `FlashWrite` (R140) -/

/-- The natural size a size code stands for is its number of bytes, where it names an accepted size. -/
theorem stands_code {n : Size} {m : Nat} (h : Listing.stands n.code m) : m = n.bytes := by
  cases n <;> exact h

theorem flashWrite_badsize {n : Nat} (hn : n ≠ 1 ∧ n ≠ 2 ∧ n ≠ 4) (o v : Nat) (s : State) :
    Listing.flashWrite o v n s = s.raise .flashAccessSize :=
  if_pos (by omega)

theorem bytes_eq_one_iff {n : Size} : n.bytes = 1 ↔ n = .one := by
  cases n <;> simp [Size.bytes]

/-- The listing's test of the size passes for a datum. -/
theorem bytes_legal (n : Size) : ¬ ¬ (n.bytes = 1 ∨ n.bytes = 2 ∨ n.bytes = 4) := by
  cases n <;> decide

/-- The pending program datum is a translating access. -/
theorem flashWrite_writing (hm : s.mode = .writing) (o v : Nat) (n : Size) :
    Listing.flashWrite o v n.bytes s = withTranslation s o n.bytes fun p =>
      ((s.memWrite p n.bytes v).moveTo .normal .one).finish := by
  rw [Listing.flashWrite, if_neg (bytes_legal n), if_pos hm]
  cases hb : s.selectedBank with
  | none =>
    have hbank := selectedBank_eq_none.mp hb
    rw [if_pos hbank, withTranslation_of_no_bank hbank]
    rfl
  | some b =>
    have hbank : ¬ s.bank.toNat > 10 := fun hgt => by simp [selectedBank_eq_none.mpr hgt] at hb
    have htable : s.cfg.bankTable[s.bank.toNat]? = some b := hb
    rw [if_neg hbank, withTranslation_of_bank hb, htable]
    rfl

theorem flashWrite_reset (hw : s.mode ≠ .writing) :
    Listing.flashWrite 0x00 0xF0 1 s = (s.moveTo .normal .one).finish := by
  rw [Listing.flashWrite, if_neg (by decide), if_neg hw]
  rfl

/-- The listing's test of the reset is the decoder's. -/
theorem reset_toNat_iff : (d.size.bytes = 1 ∧ o.toNat = 0x00 ∧ d.toNat = 0xF0) ↔ o = 0x00 ∧ d = .byte 0xF0 := by
  cases d with
  | byte v => simp [Datum.size, Size.bytes, Datum.toNat, BitVec.toNat_eq_nat]
  | half | word => simp [Datum.size, Size.bytes]

/-- In a hold mode, and of two or four bytes, a write that is no reset is ignored. -/
theorem flashWrite_ignored (hw : s.mode ≠ .writing) (hreset : ¬ (o = 0x00 ∧ d = .byte 0xF0))
    (hi : s.mode ≠ .normal ∨ d.size ≠ .one) : Listing.flashWrite o.toNat d.toNat d.size.bytes s = s.finish := by
  rw [Listing.flashWrite, if_neg (bytes_legal d.size), if_neg hw, if_neg (reset_toNat_iff.not.mpr hreset)]
  by_cases hn : s.mode ≠ .normal
  · rw [if_pos hn]
    rfl
  · rw [if_neg hn, if_pos (bytes_eq_one_iff.not.mpr (hi.resolve_left hn))]
    rfl

/-- The listing's cycle parser is the decoder's, cycle by cycle with the tests read as numbers. -/
theorem exec_parseCommand (h : s.fault = none) (hm : s.mode = .normal) (hk : s.cycle = k)
    (hreset : ¬ (o = 0x00 ∧ Datum.byte v = .byte 0xF0)) :
    exec ((parseCommand k o v).getD (.fwIgnored o (.byte v))) s =
      .next (Listing.flashWrite o.toNat v.toNat 1 s) := by
  have hreset' : ¬ (1 = 1 ∧ o.toNat = 0x00 ∧ v.toNat = 0xF0) := reset_toNat_iff.not.mpr hreset
  rw [Listing.flashWrite, if_neg (by decide), if_neg (by simp [hm]), if_neg hreset', if_neg (not_not.mpr hm),
    if_neg (by decide)]
  split
  all_goals
    next hcycle =>
    obtain rfl : _ = k := hcycle.symm.trans hk
    simp only [parseCommand, ← BitVec.toNat_inj, BitVec.reduceToNat]
    split_ifs <;> exact whenRunning_running h

/-- A flash write of a legal size does what the listing says, by the four answers of the decoder. -/
theorem exec_selectFlashWrite (h : s.fault = none) (o : Offset) (d : Datum) :
    exec (selectFlashWrite s.position o d) s = .next (Listing.flashWrite o.toNat d.toNat d.size.bytes s) := by
  by_cases hw : s.mode = .writing
  · rw [selectFlashWrite_writing hw, exec_fwProgData h, flashWrite_writing hw]
  by_cases hreset : o = 0x00 ∧ d = .byte 0xF0
  · obtain ⟨rfl, rfl⟩ := hreset
    rw [selectFlashWrite_reset hw]
    exact (whenRunning_running h).trans (congrArg _ (flashWrite_reset hw).symm)
  have hignored (hi : s.mode ≠ .normal ∨ d.size ≠ .one) :
      exec (selectFlashWrite s.position o d) s = .next (Listing.flashWrite o.toNat d.toNat d.size.bytes s) := by
    have hu : Unmatched s.position o d :=
      hi.elim (fun hn => unmatched_of_ne_normal hn o d) (unmatched_of_size _ o)
    rw [selectFlashWrite_unmatched hw hreset hu, flashWrite_ignored hw hreset hi]
    exact whenRunning_running h
  by_cases hm : s.mode = .normal
  · cases d with
    | byte v =>
      rw [selectFlashWrite_normal hm hreset]
      exact exec_parseCommand h hm rfl hreset
    | half | word => exact hignored (.inr nofun)
  · exact hignored (.inl hm)

/-- Settles O20: a flash write descriptor is of an unsupported size or that of a datum; nothing else moves the
sequencer or stores. -/
theorem flashWritesFollowTheListing : Obligations.FlashWritesFollowTheListing := by
  refine ⟨fun s td i n h hr hdir hd hn => ?_, fun i s t hi hx => ?_⟩
  · cases decode_eq_ok_iff.mp hd with
    | fwBadsize o v =>
      rw [pack_szc] at hn
      rw [flashWrite_badsize hn]
      exact whenRunning_running h
    | fw o d =>
      rw [Machine.fw, pack_szc] at hn
      rw [Machine.fw, pack_offset, pack_value, Datum.field_toNat, stands_code hn]
      exact exec_selectFlashWrite h o d
    | frBadsize | fr => simp [fr] at hdir
    | iow | ior | ioBadsize => simp [iow, ior] at hr
  · obtain ⟨hpos, hflash⟩ := exec_outside_flashWrites hi hx
    exact ⟨congrArg Position.mode hpos, congrArg Position.cycle hpos, hflash⟩

end Machine

end Sys2Proof

/-! ### Settling the family 42_flash_reads.md

A flash read of a legal size runs the row of the mode (`receive_fr`), and what each row means in a running state is said
once (`exec_frArray` to `exec_frBusy`). O21 compares these rows with the branches of R170's listing; O35 to O38 are the
rows at their sizes, with the two ways a value is formed: bytes in their order, and one byte zero-extended. O39 is what
any read can do to the state (`exec_read`). -/

namespace Sys2Proof

open Machine

/-! ### The values a read hands back (R67) -/

theorem Size.datumOf_one_byte (b : Byte) : Size.one.datumOf b.toNat = .byte b := Datum.datumOf_toNat (.byte b)

theorem Size.datumOf_two_byte (b : Byte) : Size.two.datumOf b.toNat = .half (b.setWidth 16) :=
  congrArg Datum.half (BitVec.ofNat_toNat 16 b)

theorem Size.datumOf_four_byte (b : Byte) : Size.four.datumOf b.toNat = .word (b.setWidth 32) :=
  congrArg Datum.word (BitVec.ofNat_toNat 32 b)

theorem returned_bytes (n : Size) (v : Nat) : Listing.returned n.bytes v = .value (n.datumOf v) := by
  cases n <;> rfl

/-- The identification byte as a number, as R170's listing writes it. -/
theorem idTable_toNat (l : Nat) : (idTable l).toNat = if l = 0 then 0x01 else if l = 2 then 0xC4 else 0x00 := by
  unfold idTable
  split_ifs <;> rfl

theorem idTable_offset (o : Offset) : idTable o.toNat = if o = 0 then 0x01 else if o = 2 then 0xC4 else 0x00 := by
  simp only [idTable, ← BitVec.toNat_inj, BitVec.reduceToNat]

namespace Machine

variable {s t : State} {o : Offset} {n : Size}

/-- The byte at the lowest offset is the least significant one (R56). -/
theorem ofNat_memRead_succ (s : State) (p n w : Nat) :
    BitVec.ofNat (w + 8) (s.memRead p (n + 1)) = BitVec.ofNat w (s.memRead (p + 1) n) ++ s.flashByte p := by
  have hbyte := (s.flashByte p).isLt
  have hlow : ((s.flashByte p).toNat + 0x100 * s.memRead (p + 1) n) % 2 ^ 8 = (s.flashByte p).toNat := by omega
  have hrest : ((s.flashByte p).toNat + 0x100 * s.memRead (p + 1) n) / 2 ^ 8 = s.memRead (p + 1) n := by omega
  refine BitVec.eq_of_toNat_eq ?_
  rw [toNat_append_eq_add, BitVec.toNat_ofNat, BitVec.toNat_ofNat, Nat.pow_add, Nat.mul_comm, Nat.mod_mul,
    State.memRead, hlow, hrest, Nat.add_comm]

theorem ofNat_memRead_one (s : State) (p : Nat) : BitVec.ofNat 8 (s.memRead p 1) = s.flashByte p :=
  (ofNat_memRead_succ s p 0 0).trans (BitVec.zero_width_append _ _)

/-! ### What a flash read runs -/

theorem receive_fr {m : Mode} (h : s.fault = none) (hm : s.mode = m)
    (hwin : s.cfg.inFlashWindow o.toNat n.bytes = true) : s.receive (fr n o) = exec (selectFlashRead m o n) s := by
  subst hm
  exact receive_eq_exec h (decode_fr s.position o n) (by simpa [fr] using hwin)

theorem exec_frArray (h : s.fault = none) (o : Offset) (n : Size) : exec (.frArray o n) s =
    .next (withTranslation s o.toNat n.bytes fun p => s.answer (n.datumOf (s.memRead p n.bytes))) :=
  whenRunning_running h

theorem exec_frCfi (h : s.fault = none) (o : Offset) (n : Size) : exec (.frCfi o n) s =
    .next (s.answer (n.datumOf (s.cfg.cfiTable.entry (cfiIndex s.cfg.cfiTable o.toNat n)).toNat)) :=
  whenRunning_running h

theorem exec_frId (h : s.fault = none) (o : Offset) (n : Size) : exec (.frId o n) s =
    .next (s.answer (n.datumOf (idTable o.toNat).toNat)) :=
  whenRunning_running h

theorem exec_frBusy (h : s.fault = none) (o : Offset) (n : Size) : exec (.frBusy o n) s =
    .next (s.answer (n.datumOf 0)) :=
  whenRunning_running h

/-- Inside the window of a usable bank the array read hands the stored bytes back (R172). -/
theorem exec_frArray_fits {b : BankDescriptor} (h : s.fault = none) (hb : s.selectedBank = some b)
    (hfit : o.toNat % b.size + n.bytes ≤ b.size) : exec (.frArray o n) s =
      .next (s.answer (n.datumOf (s.memRead (translate o.toNat b) n.bytes))) := by
  rw [exec_frArray h, withTranslation_of_bank hb, if_neg (Nat.not_lt.mpr hfit)]

/-! ### The listing of `FlashRead` (R170) -/

theorem flashRead_badsize {n : Nat} (hn : n ≠ 1 ∧ n ≠ 2 ∧ n ≠ 4) (o : Nat) (s : State) :
    Listing.flashRead o n s = s.raise .flashAccessSize :=
  if_pos (by omega)

/-- A flash read of a legal size does what the listing says, mode by mode. -/
theorem exec_selectFlashRead {m : Mode} (h : s.fault = none) (hm : s.mode = m) (o : Offset) (n : Size) :
    exec (selectFlashRead m o n) s = .next (Listing.flashRead o.toNat n.bytes s) := by
  rw [Listing.flashRead, if_neg (bytes_legal n)]
  simp only [returned_bytes]
  split <;> rename_i hmode <;> obtain rfl : _ = m := hmode.symm.trans hm
  · refine (exec_frArray h o n).trans (congrArg _ ?_)
    split
    next hbank => exact withTranslation_of_no_bank hbank _ _ _
    next hbank =>
      split
      next hnone => exact absurd (selectedBank_eq_none.mp hnone) hbank
      next b hb => exact withTranslation_of_bank hb _ _ _
  · simp only [bytes_eq_one_iff]
    exact exec_frCfi h o n
  · rw [← idTable_toNat]
    exact exec_frId h o n
  · exact exec_frBusy h o n
  · exact exec_frBusy h o n

/-- Settles O21: a flash read descriptor is of an unsupported size or that of a read of the mode. -/
theorem flashReadsFollowTheListing : Obligations.FlashReadsFollowTheListing := by
  intro s td i m h hr hdir hd hm
  cases decode_eq_ok_iff.mp hd with
  | frBadsize o =>
    rw [pack_szc] at hm
    rw [flashRead_badsize hm]
    exact whenRunning_running h
  | fr o n =>
    rw [Machine.fr, pack_szc] at hm
    rw [Machine.fr, pack_offset, stands_code hm]
    exact exec_selectFlashRead h rfl o n
  | fwBadsize | fw => simp [fw] at hdir
  | iow | ior | ioBadsize => simp [iow, ior] at hr

/-! ### The rows of the flash reads (R172 to R178) -/

/-- Settles O35: the three cases of a translating access, and the bytes of MemRead one by one. -/
theorem arrayReadReturnsTheStoredBytes : Obligations.ArrayReadReturnsTheStoredBytes := by
  intro s o h
  refine ⟨fun n hm hwin => receive_fr h hm hwin, fun n hb => ?_, fun b hb => ⟨fun n hspan => ?_, ?_, fun hfit => ?_,
    fun hfit => ?_, fun o' n hmirror => ?_⟩, fun a => rfl⟩
  · rw [exec_frArray h, withTranslation_of_no_bank hb]
    rfl
  · rw [exec_frArray h, withTranslation_of_bank hb, if_pos hspan]
    rfl
  · rw [exec_frArray_fits h hb (aligned_fits (Nat.mod_one _) b), ← ofNat_memRead_one]
    rfl
  · rw [exec_frArray_fits (n := .two) h hb hfit, ← ofNat_memRead_one, ← ofNat_memRead_succ]
    rfl
  · rw [exec_frArray_fits (n := .four) h hb hfit, ← ofNat_memRead_one, ← ofNat_memRead_succ,
      ← ofNat_memRead_succ, ← ofNat_memRead_succ]
    rfl
  · rw [exec_frArray h, exec_frArray h, withTranslation_of_bank hb, withTranslation_of_bank hb, translate, translate,
      hmirror]

/-- Settles O36: the entry of the size's index, zero-extended; the one-byte read at `2o` has the wide reads' index. -/
theorem cfiReadReturnsOneTableEntry : Obligations.CfiReadReturnsOneTableEntry := by
  intro s o h
  have hone (o : Offset) : exec (.frCfi o .one) s =
      .next (s.answer (.byte (s.cfg.cfiTable.entry (o.toNat % s.cfg.cfiTable.length)))) :=
    (exec_frCfi h o .one).trans (by rw [Size.datumOf_one_byte]; rfl)
  have htwo : exec (.frCfi o .two) s =
      .next (s.answer (.half ((s.cfg.cfiTable.entry (2 * o.toNat % s.cfg.cfiTable.length)).setWidth 16))) :=
    (exec_frCfi h o .two).trans (by rw [Size.datumOf_two_byte]; rfl)
  have hfour : exec (.frCfi o .four) s =
      .next (s.answer (.word ((s.cfg.cfiTable.entry (2 * o.toNat % s.cfg.cfiTable.length)).setWidth 32))) :=
    (exec_frCfi h o .four).trans (by rw [Size.datumOf_four_byte]; rfl)
  have htable := configurationAdmitsExactlyTheConstraints.2.2.1 s.cfg.cfiTable
  refine ⟨fun n hm hwin => receive_fr h hm hwin, hone o, htwo, hfour, htable, fun o' ho' e he => ?_⟩
  have hstates := Host.Outcome.next.inj ((hone o').symm.trans he)
  obtain rfl : _ = e := Datum.byte.inj (Response.value.inj (congrArg State.response hstates))
  rw [ho']
  exact ⟨htwo, hfour⟩

/-- Settles O37: the identification byte of the offset, zero-extended. -/
theorem autoselectReadReturnsTheIdentificationBytes : Obligations.AutoselectReadReturnsTheIdentificationBytes := by
  intro s o b h hb
  have hexec (n) : exec (.frId o n) s = .next (s.answer (n.datumOf b.toNat)) := by
    rw [exec_frId h, idTable_offset, hb]
  refine ⟨fun n hm hwin => receive_fr h hm hwin, ?_, ?_, ?_⟩
  · rw [hexec, Size.datumOf_one_byte]
    rfl
  · rw [hexec, Size.datumOf_two_byte]
    rfl
  · rw [hexec, Size.datumOf_four_byte]
    rfl

/-- Settles O38: both modes select the row that hands 0 back. -/
theorem busyReadReturnsZero : Obligations.BusyReadReturnsZero := by
  intro s o h
  refine ⟨fun n hm hwin => ?_, exec_frBusy h o .one, exec_frBusy h o .two, exec_frBusy h o .four⟩
  obtain hm | hm := hm <;> exact receive_fr h hm hwin

/-! ### What a read does to the state (R171) -/

/-- A read of either region faults or hands a value back. -/
theorem exec_read {i : Instr} (hi : i.reads = true) (h : exec i s = .next t) :
    (∃ k, t = s.raise k) ∨ ∃ d, t = s.answer d := by
  cases i with
  | frBadsize | ioBadsize =>
    cases (whenRunning_eq_next.mp h).2
    exact .inl ⟨_, rfl⟩
  | frCfi | frId | frBusy | iorId | iorStatus | iorUndef =>
    cases (whenRunning_eq_next.mp h).2
    exact .inr ⟨_, rfl⟩
  | frArray o n =>
    cases (whenRunning_eq_next.mp h).2
    obtain ⟨-, ht⟩ | ⟨b, -, -, ht⟩ | ⟨b, -, -, -, ht⟩ := withTranslation_cases s o.toNat n.bytes
      fun p => s.answer (n.datumOf (s.memRead p n.bytes))
    · exact .inl ⟨_, ht⟩
    · exact .inl ⟨_, ht⟩
    · exact .inr ⟨_, ht⟩
  | _ => cases hi

/-- Settles O39: both results of a read keep every field but the fault record and the value. -/
theorem readsChangeNoState : Obligations.ReadsChangeNoState := by
  intro i s t hi h
  obtain ⟨k, rfl⟩ | ⟨d, rfl⟩ := exec_read hi h <;> rfl

end Machine

end Sys2Proof

/-! ### Settling the family 43_bootrom_overlay.md

What the two interactions with the overlay do in a running state is said once (`step_overlayRead`,
`step_overlayWrite`), and so is how its bytes make up the value read (`Overlay.ofNat_read_succ`) and where its image lies
(`Overlay.byte_image`, `Overlay.byte_front`). O58 puts the read together size by size. -/

namespace Sys2Proof.Machine

/-! ### The bytes of the overlay (R191, R192, R194) -/

/-- A byte below the bits of a number is appended at the least significant end (R56, R192). -/
theorem ofNat_byte_add (b : Byte) (m w : Nat) :
    BitVec.ofNat (w + 8) (b.toNat + 0x100 * m) = BitVec.ofNat w m ++ b := by
  have hb := b.isLt
  have hlow : (b.toNat + 0x100 * m) % 2 ^ 8 = b.toNat := by omega
  have hrest : (b.toNat + 0x100 * m) / 2 ^ 8 = m := by omega
  refine BitVec.eq_of_toNat_eq ?_
  rw [toNat_append_eq_add, BitVec.toNat_ofNat, BitVec.toNat_ofNat, Nat.pow_add, Nat.mul_comm (2 ^ w), Nat.mod_mul, hlow,
    hrest, Nat.add_comm]

namespace Overlay

variable (r : Overlay)

/-- The image ends where the window ends (R191). -/
theorem byte_image {k : Nat} (hk : k < r.image.length) :
    r.byte (r.windowSize - r.image.length + k) = r.image[k] := by
  rw [byte, if_neg (Nat.not_lt.mpr (Nat.le_add_right ..)), Nat.add_sub_cancel_left, List.getD_eq_getElem _ _ hk]

/-- The window holds zeros in front of the image, all of it when there is none (R191, R194). -/
theorem byte_front {o : Nat} (ho : o < r.windowSize - r.image.length) : r.byte o = 0 :=
  if_pos ho

theorem ofNat_read_succ (o n w : Nat) :
    BitVec.ofNat (w + 8) (r.read o (n + 1)) = BitVec.ofNat w (r.read (o + 1) n) ++ r.byte o :=
  ofNat_byte_add (r.byte o) (r.read (o + 1) n) w

theorem ofNat_read_one (o : Nat) : BitVec.ofNat 8 (r.read o 1) = r.byte o :=
  (r.ofNat_read_succ o 0 0).trans (BitVec.zero_width_append _ _)

theorem datumOf_read_one (o : Nat) : Size.one.datumOf (r.read o 1) = .byte (r.byte o) :=
  congrArg Datum.byte (r.ofNat_read_one o)

theorem datumOf_read_two (o : Nat) : Size.two.datumOf (r.read o 2) = .half (r.byte (o + 1) ++ r.byte o) := by
  refine congrArg Datum.half ?_
  rw [← ofNat_read_one, ← ofNat_read_succ]

theorem datumOf_read_four (o : Nat) : Size.four.datumOf (r.read o 4) =
    .word (r.byte (o + 3) ++ r.byte (o + 2) ++ r.byte (o + 1) ++ r.byte o) := by
  refine congrArg Datum.word ?_
  rw [← ofNat_read_one, ← ofNat_read_succ, ← ofNat_read_succ, ← ofNat_read_succ]

end Overlay

/-! ### The interactions with the overlay (R192, R193) -/

variable {s : State} {rest : List HostEvent} {o : Nat}

theorem step_overlayWrite {z : SizeCode} {v : Nat} (hf : s.fault = none)
    (hb : s.bus = .action (.overlayWrite o z v) :: rest) :
    step s = .next { s with bus := rest, response := .nothing } :=
  (step_action hf hb).trans (whenRunning_running hf)

/-- A read inside the window hands the overlay's bytes back (R192). -/
theorem hostAction_overlayRead {n : Size} (hf : s.fault = none) (hfit : o + n.bytes ≤ s.overlay.windowSize) :
    hostAction (.overlayRead o n.code) s = .next (s.answer (n.datumOf (s.overlay.read o n.bytes))) := by
  refine (whenRunning_running hf).trans ?_
  rw [Size.size?_code]
  exact if_pos hfit

theorem step_overlayRead {n : Size} (hf : s.fault = none) (hb : s.bus = .action (.overlayRead o n.code) :: rest)
    (hfit : o + n.bytes ≤ s.overlay.windowSize) :
    step s = .next { s with bus := rest, response := .value (n.datumOf (s.overlay.read o n.bytes)) } :=
  (step_action hf hb).trans (hostAction_overlayRead (s := { s with bus := rest }) hf hfit)

/-- Settles O58: a read of each size hands back its bytes in their order, and a byte is one of the image or 0. -/
theorem overlayReadsItsImageAndIgnoresWrites : Obligations.OverlayReadsItsImageAndIgnoresWrites := by
  refine fun s rest o hf _ => ⟨fun _ _ hb => step_overlayWrite hf hb, fun hb hfit => ?_, fun hb hfit => ?_,
    fun hb hfit => ?_, fun k => ?_, s.overlay.byte_front⟩
  · rw [← Overlay.datumOf_read_one]
    exact step_overlayRead (n := .one) hf hb hfit
  · rw [← Overlay.datumOf_read_two]
    exact step_overlayRead (n := .two) hf hb hfit
  · rw [← Overlay.datumOf_read_four]
    exact step_overlayRead (n := .four) hf hb hfit
  · obtain hk | hk := Nat.lt_or_ge k s.overlay.image.length
    · exact .inl ((List.getElem?_eq_getElem hk).trans (congrArg some (s.overlay.byte_image hk).symm))
    · exact .inr hk

end Sys2Proof.Machine

/-! ### Settling the family 60_exceptions.md

R201's table of causes is a relation (`FaultCause`). That a cause raises its fault and that a fault recorded had its cause
are said once (`FaultCause.raises`, `FaultResult.cause`); O16, O17 and O18 are read off these two. -/

namespace Sys2Proof.Machine

variable {s t : State} {i : Instr} {k : FaultKind}

/-! ### The causes of the faults (R201) -/

/-- The operation is, in the state it finds, a cause of the fault kind (R201's table). -/
inductive FaultCause (s : State) : Instr → FaultKind → Prop where
  | writeSize (o : Offset) (v : BitVec 32) : FaultCause s (.fwBadsize o v) .flashAccessSize
  | readSize (o : Offset) : FaultCause s (.frBadsize o) .flashAccessSize
  | ledRow (v : Byte) : FaultCause s (.iowLedRsvd v) .ledReservedBits
  | led (v : Byte) (reserved : v.extractLsb' 3 5 ≠ 0) : FaultCause s (.iowLed v) .ledReservedBits
  | bankSpiRow (v : Byte) : FaultCause s (.iowBankspiRsvd v) .bankSpiReservedBit
  | bankSpi (v : Byte) (reserved : v.getLsbD 7 = true) : FaultCause s (.iowBankspi v) .bankSpiReservedBit
  | readBank (o : Offset) (n : Size) (bank : 10 < s.bank.toNat) : FaultCause s (.frArray o n) .bankIndex
  | datumBank (o : Offset) (d : Datum) (bank : 10 < s.bank.toNat) : FaultCause s (.fwProgData o d) .bankIndex
  | readSpan (o : Offset) (n : Size) (b : BankDescriptor) (bank : s.selectedBank = some b)
      (span : b.size < o.toNat % b.size + n.bytes) : FaultCause s (.frArray o n) .flashSpan
  | datumSpan (o : Offset) (d : Datum) (b : BankDescriptor) (bank : s.selectedBank = some b)
      (span : b.size < o.toNat % b.size + d.size.bytes) : FaultCause s (.fwProgData o d) .flashSpan
  | ioSize (dir : Dir) (z : SizeCode) (o : Offset) (v : BitVec 32) : FaultCause s (.ioBadsize dir z o v) .ioAccessSize

/-! ### The causes kind by kind, as R201's table lists them -/

theorem faultCause_flashAccessSize :
    FaultCause s i .flashAccessSize ↔ (∃ o v, i = .fwBadsize o v) ∨ ∃ o, i = .frBadsize o := by
  refine ⟨fun hc => ?_, ?_⟩
  · cases hc with
    | writeSize o v => exact .inl ⟨o, v, rfl⟩
    | readSize o => exact .inr ⟨o, rfl⟩
  · rintro (⟨o, v, rfl⟩ | ⟨o, rfl⟩)
    · exact .writeSize o v
    · exact .readSize o

theorem faultCause_ledReservedBits :
    FaultCause s i .ledReservedBits ↔ (∃ v, i = .iowLedRsvd v) ∨ ∃ v, i = .iowLed v ∧ v.extractLsb' 3 5 ≠ 0 := by
  refine ⟨fun hc => ?_, ?_⟩
  · cases hc with
    | ledRow v => exact .inl ⟨v, rfl⟩
    | led v reserved => exact .inr ⟨v, rfl, reserved⟩
  · rintro (⟨v, rfl⟩ | ⟨v, rfl, reserved⟩)
    · exact .ledRow v
    · exact .led v reserved

theorem faultCause_bankSpiReservedBit :
    FaultCause s i .bankSpiReservedBit ↔
      (∃ v, i = .iowBankspiRsvd v) ∨ ∃ v, i = .iowBankspi v ∧ v.getLsbD 7 = true := by
  refine ⟨fun hc => ?_, ?_⟩
  · cases hc with
    | bankSpiRow v => exact .inl ⟨v, rfl⟩
    | bankSpi v reserved => exact .inr ⟨v, rfl, reserved⟩
  · rintro (⟨v, rfl⟩ | ⟨v, rfl, reserved⟩)
    · exact .bankSpiRow v
    · exact .bankSpi v reserved

theorem faultCause_bankIndex :
    FaultCause s i .bankIndex ↔ 10 < s.bank.toNat ∧ ((∃ o n, i = .frArray o n) ∨ ∃ o d, i = .fwProgData o d) := by
  refine ⟨fun hc => ?_, ?_⟩
  · cases hc with
    | readBank o n bank => exact ⟨bank, .inl ⟨o, n, rfl⟩⟩
    | datumBank o d bank => exact ⟨bank, .inr ⟨o, d, rfl⟩⟩
  · rintro ⟨bank, ⟨o, n, rfl⟩ | ⟨o, d, rfl⟩⟩
    · exact .readBank o n bank
    · exact .datumBank o d bank

theorem faultCause_flashSpan :
    FaultCause s i .flashSpan ↔ ∃ b, s.selectedBank = some b ∧
      ((∃ o n, i = .frArray o n ∧ b.size < o.toNat % b.size + n.bytes) ∨
        ∃ o d, i = .fwProgData o d ∧ b.size < o.toNat % b.size + d.size.bytes) := by
  refine ⟨fun hc => ?_, ?_⟩
  · cases hc with
    | readSpan o n b bank span => exact ⟨b, bank, .inl ⟨o, n, rfl, span⟩⟩
    | datumSpan o d b bank span => exact ⟨b, bank, .inr ⟨o, d, rfl, span⟩⟩
  · rintro ⟨b, bank, ⟨o, n, rfl, span⟩ | ⟨o, d, rfl, span⟩⟩
    · exact .readSpan o n b bank span
    · exact .datumSpan o d b bank span

theorem faultCause_ioAccessSize : FaultCause s i .ioAccessSize ↔ ∃ dir z o v, i = .ioBadsize dir z o v := by
  refine ⟨fun hc => ?_, ?_⟩
  · cases hc with
    | ioSize dir z o v => exact ⟨dir, z, o, v, rfl⟩
  · rintro ⟨dir, z, o, v, rfl⟩
    exact .ioSize dir z o v

/-! ### What a cause does (R205) -/

theorem withTranslation_of_span {b : BankDescriptor} {l n : Nat} (hb : s.selectedBank = some b)
    (hspan : b.size < l % b.size + n) (f : Nat → State) : withTranslation s l n f = s.raise .flashSpan :=
  (withTranslation_of_bank hb l n f).trans (if_pos hspan)

/-- In a running state the cause of a fault raises it, and nothing else happens (R205). -/
theorem FaultCause.raises (hc : FaultCause s i k) (h : s.fault = none) : exec i s = .next (s.raise k) := by
  cases hc with
  | writeSize | readSize | ledRow | bankSpiRow | ioSize => exact whenRunning_running h
  | led v reserved | bankSpi v reserved =>
    exact (whenRunning_running h).trans (congrArg Host.Outcome.next (if_pos reserved))
  | readBank o n bank => rw [exec_frArray h, withTranslation_of_no_bank bank]
  | datumBank o d bank => rw [exec_fwProgData h, withTranslation_of_no_bank bank]
  | readSpan o n b bank span => rw [exec_frArray h, withTranslation_of_span bank span]
  | datumSpan o d b bank span => rw [exec_fwProgData h, withTranslation_of_span bank span]

/-! ### What an operation does to the fault record (R205) -/

/-- What executing an operation makes of a state, as far as the fault record sees it: a fault that has its cause, or a
result that keeps the record. -/
inductive FaultResult (s : State) (i : Instr) : State → Prop where
  | raised (k : FaultKind) (cause : FaultCause s i k) : FaultResult s i (s.raise k)
  | keeps (t : State) (record : t.fault = s.fault) : FaultResult s i t

/-- A register write faults where its reserved bits are its cause, and else keeps the record (R31, R32). -/
theorem FaultResult.raiseIf {p : Prop} [Decidable p] (hc : p → FaultCause s i k) (ht : t.fault = s.fault) :
    FaultResult s i (if p then s.raise k else t) := by
  split
  · next hp => exact .raised k (hc hp)
  · exact .keeps t ht

/-- A translating access faults where the bank or the span is its cause, and else keeps the record (R62, R63). -/
theorem FaultResult.translating {l n : Nat} {f : Nat → State} (hbank : 10 < s.bank.toNat → FaultCause s i .bankIndex)
    (hspan : ∀ b, s.selectedBank = some b → b.size < l % b.size + n → FaultCause s i .flashSpan)
    (hf : ∀ p, (f p).fault = s.fault) : FaultResult s i (withTranslation s l n f) := by
  obtain ⟨hnone, h⟩ | ⟨b, hb, hout, h⟩ | ⟨b, -, -, -, h⟩ := withTranslation_cases s l n f <;> rw [h]
  · exact .raised _ (hbank (selectedBank_eq_none.mp hnone))
  · exact .raised _ (hspan b hb hout)
  · exact .keeps _ (hf _)

/-- What completes behind the gate has the result of what it gates. -/
theorem FaultResult.ofGate {u : State} (h : whenRunning s (.next u) = .next t) (hu : FaultResult s i u) :
    FaultResult s i t := by
  obtain ⟨-, heq⟩ := whenRunning_eq_next.mp h
  cases heq
  exact hu

/-- An operation faults by one of its causes, or keeps the record. -/
theorem exec_faultResult (h : exec i s = .next t) : FaultResult s i t := by
  cases i with
  | fwBadsize o v => exact .ofGate h (.raised _ (.writeSize o v))
  | frBadsize o => exact .ofGate h (.raised _ (.readSize o))
  | iowLedRsvd v => exact .ofGate h (.raised _ (.ledRow v))
  | iowBankspiRsvd v => exact .ofGate h (.raised _ (.bankSpiRow v))
  | ioBadsize dir z o v => exact .ofGate h (.raised _ (.ioSize dir z o v))
  | iowLed v => exact .ofGate h (.raiseIf (.led v) rfl)
  | iowBankspi v => exact .ofGate h (.raiseIf (.bankSpi v) rfl)
  | frArray o n => exact .ofGate h (.translating (.readBank o n) (.readSpan o n) fun _ => rfl)
  | fwProgData o d => exact .ofGate h (.translating (.datumBank o d) (.datumSpan o d) fun _ => by simp)
  | _ => exact .ofGate h (.keeps _ rfl)

/-- A fault recorded in a running state had its cause, and recording it is all that happened (R205). -/
theorem FaultResult.cause (hr : FaultResult s i t) (h : s.fault = none) (hk : t.fault = some k) :
    FaultCause s i k ∧ t = s.raise k := by
  cases hr with
  | raised k' cause =>
    obtain rfl : k' = k := Option.some.inj hk
    exact ⟨cause, rfl⟩
  | keeps t record => cases (hk.symm.trans record).trans h

/-- A completed operation records a fault exactly when it is the fault's cause (R201). -/
theorem fault_iff_cause (h : exec i s = .next t) : t.fault = some k ↔ FaultCause s i k := by
  have hs := (exec_executed h).1
  refine ⟨fun hk => ((exec_faultResult h).cause hs hk).1, fun hc => ?_⟩
  cases h.symm.trans (hc.raises hs)
  rfl

/-! ### The statements -/

/-- Settles O8: every step and every interaction asks the fault record first. -/
theorem noInteractionHasAMeaningAfterAFault : Obligations.NoInteractionHasAMeaningAfterAFault := by
  refine fun s k h => ⟨?_, fun i => ?_, fun a => ?_⟩
  · rw [step, fetch_ended h]
  · cases i <;> exact whenRunning_ended h
  · cases a <;> exact whenRunning_ended h

/-- Settles O16: a fault that is recorded was raised, and raising it does nothing else. -/
theorem faultingTransactionChangesOnlyTheFaultRecord : Obligations.FaultingTransactionChangesOnlyTheFaultRecord :=
  fun _ _ _ _ h hk => ((exec_faultResult h).cause (exec_executed h).1 hk).2

/-- Settles O17: kind by kind, the causes are the rows of R201's table. -/
theorem faultsAreRaisedInExactlyTheirCauses : Obligations.FaultsAreRaisedInExactlyTheirCauses := by
  refine ⟨rfl, fun i s t h => ?_⟩
  simp only [fault_iff_cause h]
  exact ⟨faultCause_flashAccessSize, faultCause_ledReservedBits, faultCause_bankSpiReservedBit, faultCause_bankIndex,
    faultCause_flashSpan, faultCause_ioAccessSize⟩

/-- Settles O18: the size is decoded before anything else is asked, and the bank index is asked before the span. -/
theorem faultCausesHaveTheirPriority : Obligations.FaultCausesHaveTheirPriority := by
  intro s h
  obtain ⟨-, -, -, -, hsize⟩ := unsupportedFlashSizesFault s h
  refine ⟨fun n h1 h2 h4 o v hwin => (hsize n h1 h2 h4 o hwin).1 v,
    fun n h1 h2 h4 o hwin => (hsize n h1 h2 h4 o hwin).2, fun hb hm o n hwin => ?_, fun hb hm o d hwin => ?_,
    fun n o v hn hv ho => ?_⟩
  · exact (receive_fr h hm hwin).trans ((FaultCause.readBank o n hb).raises h)
  · rw [receive_fw h hwin, selectFlashWrite_writing hm]
    exact (FaultCause.datumBank o d hb).raises h
  · exact (wideIoAccessesFault s .write o v h).2 n hn hv nofun ho

end Sys2Proof.Machine

/-! ### Settling the family 70_reset_and_hazards.md

The state after reset is read off `State.resetOf`. The hazard of R249 is assembled from what is settled of its two
transactions: the bits of the status read (O44) and the bank write of a given byte (O41). -/

namespace Sys2Proof.Machine

/-! ### The state after reset (R230) -/

/-- With no cell listed FLASH is the reset image (R231). -/
theorem flashByte_resetOf (cfg : Config) (a : Nat) : (State.resetOf cfg).flashByte a = cfg.initByte a := rfl

/-- Reset leaves a reachable position, a flash store with no cell, and an overlay image cut to the least window. -/
theorem resetOf_inv (cfg : Config) : (State.resetOf cfg).Inv :=
  ⟨rfl, Memory.wf_nil cfg, List.length_take_le bootromWindowMin cfg.bootromImage⟩

/-- Settles O11: `State.reset` is the reset of one of the configurations. -/
theorem resetMeetsTheInvariant : Obligations.ResetMeetsTheInvariant :=
  ⟨resetOf_inv, resetOf_inv Config.machine⟩

/-- Settles O13: every field but FLASH is the value that reset writes. -/
theorem resetLeavesWhatItsConfigurationGives : Obligations.ResetLeavesWhatItsConfigurationGives :=
  fun cfg => ⟨rfl, flashByte_resetOf cfg, rfl, rfl, rfl, rfl, rfl, rfl, rfl, rfl, rfl, rfl⟩

/-! ### Writing back the status byte (R249) -/

/-- Settles O47: bit 7 of the byte read is recovery, and the reserved bit of the byte written; the three bits
below it drive the outputs, and the bank is read from and written to the same place. -/
theorem writingBackTheStatusByteFaultsUnderRecovery : Obligations.WritingBackTheStatusByteFaultsUnderRecovery := by
  intro s t b h hb
  have hrunning : s.fault = none := (exec_executed h).1
  obtain ⟨b', hread, -, hrecovery, hsck, hcs, hmosi, hbank, -⟩ := statusReadComposesTheStatusByte s hrunning
  cases h.symm.trans hread
  cases hb
  have hreserved : 0x80 ≤ b.toNat ↔ s.recovery = true := hrecovery ▸ (bankSpiReserved_iff b).symm
  obtain ⟨-, -, -, hsets, hfaults⟩ := bankSpiWriteSetsFourFields { s with response := .value (.byte b) } b hrunning
  refine ⟨fun hr => hfaults (hreserved.mpr hr), fun hr => ?_⟩
  have hwrite := hsets (Nat.not_le.mp (hreserved.not.mpr (Bool.eq_false_iff.mp hr)))
  rwa [hbank, hmosi, hcs, hsck] at hwrite

end Sys2Proof.Machine
